-- ==== Sys2Proof/Word.lean ====
section
/-! DEFINITION. The word type of the block and the sequences made of it. -/

namespace Sys2Proof

/-- A byte: 8 bits, unsigned (rule R7, `BYTE_W = 8`). `≤` and `<` on it are the unsigned comparisons of rule R148. -/
abbrev Byte := BitVec 8

/-- A MidiMessage: an "ordered sequence of bytes", first byte first (rules R58, R72). -/
abbrev Message := List Byte

end Sys2Proof
end

