-- ==== Sys2Proof/Syntax.lean ====
section
/-! DEFINITION. The instructions: one constructor for each of the 24 rows of spec/opcode_table.json, and the words of
the opcode map (rules R72, R75, R100). An instruction is one input byte (rule R11, log entry 1). -/

namespace Sys2Proof

/-- The opcode map of rule R75, one constructor per row. -/
inductive Instr where
  /-- `DATA`, `0ddddddd`: a data byte, no opcode (rule R115). -/
  | data (d : BitVec 7)
  /-- `CH8`, `1000cccc`, format M3 (rule R103). -/
  | ch8 (c : BitVec 4)
  /-- `CH9`, `1001cccc`, format M3 (rule R104). -/
  | ch9 (c : BitVec 4)
  /-- `CHA`, `1010cccc`, format M3 (rule R105). -/
  | chA (c : BitVec 4)
  /-- `CHB`, `1011cccc`, format M3 (rule R106). -/
  | chB (c : BitVec 4)
  /-- `CHC`, `1100cccc`, format M2 (rule R107). -/
  | chC (c : BitVec 4)
  /-- `CHD`, `1101cccc`, format M2 (rule R108). -/
  | chD (c : BitVec 4)
  /-- `CHE`, `1110cccc`, format M3 (rule R109). -/
  | chE (c : BitVec 4)
  /-- `SYSEX`, `11110000`, format MX (rule R110). -/
  | sysex
  /-- `SYS_F1`, `11110001`, format M2 (rule R111). -/
  | sysF1
  /-- `SYS_F2`, `11110010`, format M3 (rule R112). -/
  | sysF2
  /-- `SYS_F3`, `11110011`, format M2 (rule R113). -/
  | sysF3
  /-- `SYS_F4`, `11110100`, format M1 (rule R114). -/
  | sysF4
  /-- `SYS_F5`, `11110101`, format M1 (rule R114). -/
  | sysF5
  /-- `SYS_F6`, `11110110`, format M1 (rule R114). -/
  | sysF6
  /-- `SYS_F7`, `11110111`, format M1 (rule R114; as a later byte it ends a sysex message, rule R79). -/
  | sysF7
  /-- `SYS_F8`, `11111000`, format M1 (rule R114). -/
  | sysF8
  /-- `SYS_F9`, `11111001`, format M1 (rule R114). -/
  | sysF9
  /-- `SYS_FA`, `11111010`, format M1 (rule R114). -/
  | sysFA
  /-- `SYS_FB`, `11111011`, format M1 (rule R114). -/
  | sysFB
  /-- `SYS_FC`, `11111100`, format M1 (rule R114). -/
  | sysFC
  /-- `SYS_FD`, `11111101`, format M1 (rule R114). -/
  | sysFD
  /-- `SYS_FE`, `11111110`, format M1 (rule R114). -/
  | sysFE
  /-- `SYS_FF`, `11111111`, format M1 (rule R114). -/
  | sysFF
deriving DecidableEq, Repr

/-- The classifier's result (rules R100, R118): `Unknown` is a value of its own, distinct from every length. -/
inductive Verdict where
  /-- "a message that starts like this is `n` bytes long in total". -/
  | len (n : Nat)
  /-- "cannot tell yet, need more data". -/
  | unknown
deriving DecidableEq, Repr

/-- The message formats of rule R72; `none` is the format column of the row `DATA`. -/
inductive Format where
  | none
  | m1
  | m2
  | m3
  | mx
deriving DecidableEq, Repr

/-- One row of the opcode map (rules R75, R76): a byte `op` selects the row when `op &&& mask = pat`. -/
structure Row where
  mnemonic : String
  format : Format
  pat : Byte
  mask : Byte
  isOpcode : Bool
  setsRunningStatus : Bool
deriving DecidableEq, Repr

end Sys2Proof
end

