-- ==== Sys2Proof/WellFormed.lean ====
section
/-! DEFINITION. Which instructions and which messages are well formed. -/

namespace Sys2Proof

/-- The well-formed instructions: all. The operand fields are bit vectors of the width the encoding gives them (rule
R71: seven data bits, four channel bits), so no term of `Instr` can hold a field that is out of range, and no check is
left. -/
def Instr.wellFormed : Instr → Bool
  | .data _ | .ch8 _ | .ch9 _ | .chA _ | .chB _ | .chC _ | .chD _ | .chE _ => true
  | .sysex | .sysF1 | .sysF2 | .sysF3 => true
  | .sysF4 | .sysF5 | .sysF6 | .sysF7 | .sysF8 | .sysF9 => true
  | .sysFA | .sysFB | .sysFC | .sysFD | .sysFE | .sysFF => true

/-- The operand bytes of a complete sysex message: the last is `0xF7` and no earlier one is (rule R72, format MX). -/
def sysexTail (xs : Message) : Bool :=
  xs.getLast? == some 0xF7#8 && xs.dropLast.all (· != 0xF7#8)

/-- The operand bytes `xs` that make `op :: xs` a message of `op`'s format (rules R72, R74: the operands of a fixed
format may have any value). No message starts with a data byte. -/
def operandsFit (op : Byte) (xs : Message) : Bool :=
  if op < 0x80#8 then false
  else if op < 0xC0#8 then xs.length == 2
  else if op < 0xE0#8 then xs.length == 1
  else if op < 0xF0#8 then xs.length == 2
  else if op = 0xF0#8 then sysexTail xs
  else if op = 0xF2#8 then xs.length == 2
  else if op < 0xF4#8 then xs.length == 1
  else xs.isEmpty

/-- The shape of a message that a block of capacity `cap` can emit (rule R144). -/
def messageWf (cap : Nat) : Message → Bool
  | [] => false
  | op :: xs => operandsFit op xs && decide (xs.length + 1 ≤ cap)

end Sys2Proof
end

