-- ==== Sys2Proof/Decode.lean ====
section
/-! DEFINITION. Decoding a byte to its row of the opcode map (rules R75, R76), the encoder, and the map itself as data. -/

namespace Sys2Proof

/-- The channel field `op[3:0]` (rule R71, the low nibble). -/
def channelField (b : Byte) : BitVec 4 := b.extractLsb' 0 4

/-- The seven data bits of a data byte (rule R75, encoding `0ddddddd`). -/
def dataField (b : Byte) : BitVec 7 := b.extractLsb' 0 7

/-- The instruction a byte is: the match and mask column of rule R75, row by row. Every byte value selects exactly one
row (rule R116), so there is no reserved encoding to reject (rule R78); the last row is the one value left. -/
def decodeByte (b : Byte) : Instr :=
  if b &&& 0x80#8 = 0x00#8 then .data (dataField b)
  else if b &&& 0xF0#8 = 0x80#8 then .ch8 (channelField b)
  else if b &&& 0xF0#8 = 0x90#8 then .ch9 (channelField b)
  else if b &&& 0xF0#8 = 0xA0#8 then .chA (channelField b)
  else if b &&& 0xF0#8 = 0xB0#8 then .chB (channelField b)
  else if b &&& 0xF0#8 = 0xC0#8 then .chC (channelField b)
  else if b &&& 0xF0#8 = 0xD0#8 then .chD (channelField b)
  else if b &&& 0xF0#8 = 0xE0#8 then .chE (channelField b)
  else if b &&& 0xFF#8 = 0xF0#8 then .sysex
  else if b &&& 0xFF#8 = 0xF1#8 then .sysF1
  else if b &&& 0xFF#8 = 0xF2#8 then .sysF2
  else if b &&& 0xFF#8 = 0xF3#8 then .sysF3
  else if b &&& 0xFF#8 = 0xF4#8 then .sysF4
  else if b &&& 0xFF#8 = 0xF5#8 then .sysF5
  else if b &&& 0xFF#8 = 0xF6#8 then .sysF6
  else if b &&& 0xFF#8 = 0xF7#8 then .sysF7
  else if b &&& 0xFF#8 = 0xF8#8 then .sysF8
  else if b &&& 0xFF#8 = 0xF9#8 then .sysF9
  else if b &&& 0xFF#8 = 0xFA#8 then .sysFA
  else if b &&& 0xFF#8 = 0xFB#8 then .sysFB
  else if b &&& 0xFF#8 = 0xFC#8 then .sysFC
  else if b &&& 0xFF#8 = 0xFD#8 then .sysFD
  else if b &&& 0xFF#8 = 0xFE#8 then .sysFE
  else .sysFF

/-- Why bytes do not decode. -/
inductive DecodeError where
  /-- There is no byte to decode. Every byte there is decodes (rule R75). -/
  | noByte
deriving DecidableEq, Repr

/-- Decode the first instruction of a byte sequence and give back the rest (rule R53: one byte at a time). -/
def decode : List Byte → Except DecodeError (Instr × List Byte)
  | [] => .error .noByte
  | b :: rest => .ok (decodeByte b, rest)

/-- The byte an instruction is: the encoding column of the opcode table (rules R71, R76). -/
def Instr.byte : Instr → Byte
  | .data d => 0b0#1 ++ d
  | .ch8 c => 0b1000#4 ++ c
  | .ch9 c => 0b1001#4 ++ c
  | .chA c => 0b1010#4 ++ c
  | .chB c => 0b1011#4 ++ c
  | .chC c => 0b1100#4 ++ c
  | .chD c => 0b1101#4 ++ c
  | .chE c => 0b1110#4 ++ c
  | .sysex => 0b11110000#8
  | .sysF1 => 0b11110001#8
  | .sysF2 => 0b11110010#8
  | .sysF3 => 0b11110011#8
  | .sysF4 => 0b11110100#8
  | .sysF5 => 0b11110101#8
  | .sysF6 => 0b11110110#8
  | .sysF7 => 0b11110111#8
  | .sysF8 => 0b11111000#8
  | .sysF9 => 0b11111001#8
  | .sysFA => 0b11111010#8
  | .sysFB => 0b11111011#8
  | .sysFC => 0b11111100#8
  | .sysFD => 0b11111101#8
  | .sysFE => 0b11111110#8
  | .sysFF => 0b11111111#8

/-- The bytes of an instruction, first byte first. -/
def encode (i : Instr) : List Byte := [i.byte]

/-- The instruction's row of the opcode table (rule R76), with the table's match, mask, format, `is_opcode` and
`sets_running_status`. -/
def Instr.row : Instr → Row
  | .data _ => ⟨"DATA", .none, 0x00#8, 0x80#8, false, false⟩
  | .ch8 _ => ⟨"CH8", .m3, 0x80#8, 0xF0#8, true, true⟩
  | .ch9 _ => ⟨"CH9", .m3, 0x90#8, 0xF0#8, true, true⟩
  | .chA _ => ⟨"CHA", .m3, 0xA0#8, 0xF0#8, true, true⟩
  | .chB _ => ⟨"CHB", .m3, 0xB0#8, 0xF0#8, true, true⟩
  | .chC _ => ⟨"CHC", .m2, 0xC0#8, 0xF0#8, true, true⟩
  | .chD _ => ⟨"CHD", .m2, 0xD0#8, 0xF0#8, true, true⟩
  | .chE _ => ⟨"CHE", .m3, 0xE0#8, 0xF0#8, true, true⟩
  | .sysex => ⟨"SYSEX", .mx, 0xF0#8, 0xFF#8, true, true⟩
  | .sysF1 => ⟨"SYS_F1", .m2, 0xF1#8, 0xFF#8, true, true⟩
  | .sysF2 => ⟨"SYS_F2", .m3, 0xF2#8, 0xFF#8, true, true⟩
  | .sysF3 => ⟨"SYS_F3", .m2, 0xF3#8, 0xFF#8, true, true⟩
  | .sysF4 => ⟨"SYS_F4", .m1, 0xF4#8, 0xFF#8, true, false⟩
  | .sysF5 => ⟨"SYS_F5", .m1, 0xF5#8, 0xFF#8, true, false⟩
  | .sysF6 => ⟨"SYS_F6", .m1, 0xF6#8, 0xFF#8, true, false⟩
  | .sysF7 => ⟨"SYS_F7", .m1, 0xF7#8, 0xFF#8, true, false⟩
  | .sysF8 => ⟨"SYS_F8", .m1, 0xF8#8, 0xFF#8, true, false⟩
  | .sysF9 => ⟨"SYS_F9", .m1, 0xF9#8, 0xFF#8, true, false⟩
  | .sysFA => ⟨"SYS_FA", .m1, 0xFA#8, 0xFF#8, true, false⟩
  | .sysFB => ⟨"SYS_FB", .m1, 0xFB#8, 0xFF#8, true, false⟩
  | .sysFC => ⟨"SYS_FC", .m1, 0xFC#8, 0xFF#8, true, false⟩
  | .sysFD => ⟨"SYS_FD", .m1, 0xFD#8, 0xFF#8, true, false⟩
  | .sysFE => ⟨"SYS_FE", .m1, 0xFE#8, 0xFF#8, true, false⟩
  | .sysFF => ⟨"SYS_FF", .m1, 0xFF#8, 0xFF#8, true, false⟩

/-- The opcode map of rule R75, in its order: the 24 rows of spec/opcode_table.json. -/
def opcodeTable : List Row :=
  [Instr.data 0, .ch8 0, .ch9 0, .chA 0, .chB 0, .chC 0, .chD 0, .chE 0, .sysex, .sysF1, .sysF2, .sysF3, .sysF4,
    .sysF5, .sysF6, .sysF7, .sysF8, .sysF9, .sysFA, .sysFB, .sysFC, .sysFD, .sysFE, .sysFF].map Instr.row

/-- The one byte of an instruction whose bits are `w`, numbered as spec/opcode_table.json numbers them: bit 0 is the
byte's least significant bit, and every bit from `nbits` on is 0. The longest instruction is one byte (log entry 10). -/
def tableByte (nbits w : Nat) : Byte := BitVec.ofNat 8 (w % 2 ^ nbits)

/-- What the decoder reads from an instruction given as the opcode table numbers its bits. -/
def decodeTableWord (nbits w : Nat) : Option Instr :=
  match decode [tableByte nbits w] with
  | .ok (i, _) => some i
  | .error _ => none

end Sys2Proof
end

