-- ==== Sys2Proof/Config.lean ====
section
/-! DEFINITION. What an implementation of the block fixes: the capacity of the partial buffer and the widths that
follow from it (rule R6). -/

namespace Sys2Proof

/-- How many byte slots the implementation has beyond the three that rule R6 requires. OPEN (92 D5, D16): no value is
known, so every statement holds for every capacity. DESIGN CHOICE (safe, log entry 2): the open parameter is a constant
without a body. -/
opaque Config.bufExtra : Nat

/-- `BUF_CAP`, the number of byte slots of the partial buffer: a natural number, at least 3 (rule R6). -/
def Config.bufCap : Nat := Config.bufExtra + 3

/-- `LEN_W = ceil(log2(BUF_CAP + 1))`, the width in bits of `len` and `msg_len` (rule R6). -/
def Config.lenW : Nat := Nat.clog 2 (Config.bufCap + 1)

end Sys2Proof
end

