-- ==== Sys2Proof/Machine/State.lean ====
section
/-! DEFINITION. The state of the block, its ports, its state after reset, and the two ways a step could stop (neither
is ever taken). -/

namespace Sys2Proof.Machine

/-- What the environment presents in one step (rule R52). -/
structure InPort where
  /-- Reset request. -/
  rst : Bool
  /-- The byte source presents a byte. -/
  inValid : Bool
  /-- The byte presented; ignored unless `inValid` and not `rst` (93 U9). -/
  inData : Byte
deriving DecidableEq, Repr

/-- The architectural state of one block (rule R20) and the data spaces of rule R50 that it reads and writes.
`buf`, `rs`, `ovf` and `orphan` are the whole architectural state. `msg`, `emitted` and `input` are the MODEL's own
fields: they record the ports, no rule of the block reads `msg` or `emitted`, and no register of the block is behind
them (rule R31; log entries 5 and 6). -/
structure State where
  /-- The partial buffer: the sequence `buf[0..len-1]` (rules R21, R23). DESIGN CHOICE (safe, log entry 4): slots at
  index `len` and above hold no value and are not held; `len` is the list's length. -/
  buf : List Byte
  /-- The running status (rules R25, R26): `none` is `rs_valid = 0`, `some b` is `rs_valid = 1` and `rs = b`.
  DESIGN CHOICE (safe, log entry 3): while `rs_valid = 0`, `rs` holds no value. -/
  rs : Option Byte
  /-- `FLAGS.ovf`, bit 0 of `FLAGS` (rule R30). -/
  ovf : Bool
  /-- `FLAGS.orphan`, bit 1 of `FLAGS` (rule R30). -/
  orphan : Bool
  /-- The output port of the last step (rule R55): `none` is `msg_valid = 0`, `some m` presents `m` whole. -/
  msg : Option Message
  /-- The output message stream: every message emitted so far, first emitted first (rules R10, R50, R63). -/
  emitted : List Message
  /-- The inputs still to be presented, one per step, the next one first (rules R50, R52, R53). When there is none the
  source presents nothing. -/
  input : List InPort
deriving DecidableEq, Repr

/-- The error conditions of rule R170 and their codes; the list is closed. -/
inductive Condition where
  /-- Code 0: a byte arrives while `len = BUF_CAP` (rule R172). -/
  | overflow
  /-- Code 1: a data byte arrives in the ready state while `rs_valid = 0` (rule R171). -/
  | orphan
deriving DecidableEq, Repr

/-- The reasons a step can stop with a fault: none. `feed` is total (rule R130), the block never halts (rules R147,
R206), and a condition is a state change with a sticky flag, not a stop (rule R176; log entry 9). -/
inductive Fault where
deriving DecidableEq, Repr

/-- The reasons a step can be refused. -/
inductive Refusal where
  /-- Raised by an arm of `exec` whose instruction has no meaning yet; no arm raises it now (safe: the machine would
  stop where the hardware goes on). -/
  | notModelled (mnemonic : String)
deriving DecidableEq, Repr

/-- The state after reset (rules R33, R190): `len = 0`, the running status "none", both flags 0, `msg_valid = 0`.
Nothing has been emitted and nothing is presented yet (DESIGN CHOICE, log entries 5 and 6). -/
def State.reset : State where
  buf := []
  rs := none
  ovf := false
  orphan := false
  msg := none
  emitted := []
  input := []

end Sys2Proof.Machine
end

