-- ==== Sys2Proof/Machine/Flags.lean ====
section
/-! DEFINITION. The sticky flags `FLAGS` (rules R30, R170, R177). The block computes no other flag (rule R148). -/

namespace Sys2Proof.Machine

/-- Set the flag of a condition; the other is unchanged (rules R171, R172). -/
def State.setFlag (c : Condition) (s : State) : State :=
  match c with
  | .overflow => { s with ovf := true }
  | .orphan => { s with orphan := true }

/-- Clear both flags: only reset does (rules R30, R190). -/
def State.clearFlags (s : State) : State := { s with ovf := false, orphan := false }

/-- The 2-bit status register `FLAGS`: bit 0 is `ovf`, bit 1 is `orphan` (rule R30). -/
def State.flags (s : State) : BitVec 2 := BitVec.ofBool s.orphan ++ BitVec.ofBool s.ovf

/-- The output `flag_ovf` (rule R55). -/
def State.flagOvf (s : State) : Bool := s.ovf

/-- The output `flag_orphan` (rule R55). -/
def State.flagOrphan (s : State) : Bool := s.orphan

end Sys2Proof.Machine
end

