-- ==== Sys2Proof/Machine/Operands.lean ====
section
/-! DEFINITION. The classes a byte falls in and the classifier: everything the block reads off the bytes themselves
(rules R70 to R82, R100 to R119). -/

namespace Sys2Proof.Machine

/-- A status byte: bit 7 is set, that is `b >= 0x80` (rule R70; 90 C1 settles this test). -/
def isStatus (b : Byte) : Bool := 0x80#8 ≤ b

/-- A first byte that is emitted alone and leaves the running status as it is: `b >= 0xF4` (rule R133; 90 C2). -/
def isOneByte (b : Byte) : Bool := 0xF4#8 ≤ b

/-- A first byte that becomes the running status: `0x80 <= b <= 0xF3` (rule R27 item 1, rule R132). -/
def setsStatus (b : Byte) : Bool := isStatus b && !isOneByte b

/-- The type nibble `op[7:4]`, in place: `op & 0xF0` (rules R71, R148). -/
def typeNibble (op : Byte) : Byte := op &&& 0xF0#8

/-- MessageLengthClassifier (rules R100 to R102): the rows in the document's order, on the opcode `op` and, for
`0xF0`, the last byte. -/
def classify : List Byte → Verdict
  | [] => .unknown
  | op :: xs =>
    if 0xF4#8 ≤ op then .len 1
    else if op = 0xF1#8 ∨ op = 0xF3#8 then .len 2
    else if op = 0xF2#8 then .len 3
    else if op = 0xF0#8 then
      if xs.getLastD op = 0xF7#8 then .len (xs.length + 1) else .unknown
    else if typeNibble op ∈ [0x80#8, 0x90#8, 0xA0#8, 0xB0#8, 0xE0#8] then .len 3
    else if typeNibble op ∈ [0xC0#8, 0xD0#8] then .len 2
    else .unknown

/-- The completion test `v = Len L and L <= len` (rule R138); `Unknown` never satisfies it (rule R118). -/
def completes (s : List Byte) : Bool :=
  match classify s with
  | .len n => n ≤ s.length
  | .unknown => false

end Sys2Proof.Machine
end

