-- ==== Sys2Proof/Machine/Ops.lean ====
section
/-! DEFINITION. The named operations over the buffer, the running status and the ports, and raising a condition. -/

namespace Sys2Proof.Machine

/-- `len`, the number of buffer slots in use (rule R22). -/
def State.len (s : State) : Nat := s.buf.length

/-- `len` as the block holds it, in `LEN_W` bits (rules R6, R20; log entry 7). -/
def State.lenField (s : State) : BitVec Config.lenW := BitVec.ofNat Config.lenW s.len

/-- Slot `buf[i]`; a slot at index `len` or above holds no value (rule R23). -/
def State.slot (s : State) (i : Nat) : Option Byte := s.buf[i]?

/-- `rs_valid` (rule R25). -/
def State.rsValid (s : State) : Bool := s.rs.isSome

/-- The output `idle`: the block is in the ready state (rules R22, R55). -/
def State.idle (s : State) : Bool := s.buf.isEmpty

/-- The output `msg_valid` (rule R55). -/
def State.msgValid (s : State) : Bool := s.msg.isSome

/-- The output `msg_len`, which holds no value when `msg_valid = 0` (rule R55). -/
def State.msgLen (s : State) : Option Nat := s.msg.map List.length

/-- The output `msg_data[i]`, which holds no value when `msg_valid = 0` or `i >= msg_len` (rule R55). -/
def State.msgData (s : State) (i : Nat) : Option Byte := s.msg.bind (·[i]?)

/-- Output `None`: no message is presented in this step (rules R52, R55). -/
def State.noMessage (s : State) : State := { s with msg := none }

/-- `buf[len] <- b; len <- len + 1` (rules R61, R137). -/
def State.append (b : Byte) (s : State) : State := { s with buf := s.buf ++ [b] }

/-- `rs <- b; rs_valid <- 1` (rule R132). -/
def State.recordStatus (b : Byte) (s : State) : State := { s with rs := some b }

/-- `buf[0] <- rs; buf[1] <- b; len <- 2` (rules R61, R135): the block itself expands the running-status short form
(rule R81), the one pseudo-form there is (rule R83). -/
def State.synthesise (r b : Byte) (s : State) : State := { s with buf := [r, b] }

/-- Raise a condition: its whole effect (rules R171, R172, R176). Nothing is saved and control goes nowhere, so there
is no return from it (rule R177). -/
def State.raise (c : Condition) (s : State) : State :=
  match c with
  | .overflow => { (s.setFlag .overflow) with buf := [], rs := none }
  | .orphan => { (s.setFlag .orphan) with buf := [] }

/-- Put the whole buffer out as this step's message and empty the buffer; the running status and the flags stay
(rule R139). -/
def State.emit (s : State) : State :=
  { s with msg := some s.buf, emitted := s.emitted ++ [s.buf], buf := [] }

/-- Step 3 of `feed`: classify the buffer as it stands and emit it when it is complete (rules R62, R138). -/
def State.complete (s : State) : State := if completes s.buf then s.emit else s

/-- A reset step (rule R190). The messages already handed to the sink and the inputs still to come are not the
block's to change (DEDUCED, log entry 11). -/
def State.resetStep (s : State) : State := { s.clearFlags.noMessage with buf := [], rs := none }

/-- A step in which nothing is presented (rule R52): no state changes and nothing is emitted. -/
def State.idleStep (s : State) : State := s.noMessage

/-- Take the input of this step off the stream: the read is destructive (rule R53). -/
def State.takeInput (s : State) : State := { s with input := s.input.tail }

/-- The input that presents the byte `b` (rule R52). -/
def byteIn (b : Byte) : InPort := { rst := false, inValid := true, inData := b }

/-- Have the source present `b` in the next step, before everything it has still to present. -/
def State.present (b : Byte) (s : State) : State := { s with input := byteIn b :: s.input }

end Sys2Proof.Machine
end

