-- ==== Sys2Proof/Machine/Feed.lean ====
section
/-! DEFINITION. RunningStatusReassembler: the operation `feed` of rule R131, which every instruction is one use of. -/

namespace Sys2Proof.Machine

/-- Step 0 of `feed`, the capacity check (rule R140), and the step's output set to `None`. -/
def State.checkCapacity (cap : Nat) (s : State) : State :=
  if s.len = cap then s.noMessage.raise .overflow else s.noMessage

/-- Steps 1 to 3 of `feed`: append, first-byte handling, classify and complete (rules R132 to R139). A first data byte
under a running status is the short form and is expanded; no other byte is rewritten (rules R81, R83). -/
def State.accept (b : Byte) (s : State) : State :=
  let s := s.append b
  if s.len = 1 then
    if isStatus b then
      if isOneByte b then s.complete else (s.recordStatus b).complete
    else
      match s.rs with
      | some r => (s.synthesise r b).complete
      | none => s.raise .orphan
  else s.complete

/-- `feed(b)` of rule R131 on a block whose buffer has `cap` slots (the parameter `BUF_CAP` of rule R6). -/
def feedAt (cap : Nat) (b : Byte) (s : State) : State := (s.checkCapacity cap).accept b

/-- `feed(b)` of this block (rule R130). -/
def feed (b : Byte) (s : State) : State := feedAt Config.bufCap b s

/-- The bytes of a stream fed one after the other (rule R141): a program is such a stream (rule R83). -/
def feedAll (cap : Nat) (bs : List Byte) (s : State) : State := bs.foldl (fun s b => feedAt cap b s) s

/-- The document's own `feed`, whose buffer "grows without bound" (rules R6, R131): no capacity check. No step of the
block uses it; rule R6 compares the block with it. -/
def feedUnbounded (b : Byte) (s : State) : State := s.noMessage.accept b

end Sys2Proof.Machine
end

