-- ==== Sys2Proof/Machine/Channel.lean ====
section
/-! DEFINITION. The meanings of the channel rows `CH8` to `CHE` (rules R103 to R109). With `len = 0` the byte opens a
message and becomes the running status (rule R132), later it is an operand (rules R137, R149), on a full buffer it
opens a message after the overflow (rule R140). The channel is not looked at (rules R9, R71). -/

namespace Sys2Proof.Machine

/-- `CH8` (rule R103): opens a message of 3 bytes. -/
def execCh8 (c : BitVec 4) (s : State) : Host.Outcome State Fault Refusal := .next (feed (Instr.ch8 c).byte s)

/-- `CH9` (rule R104): opens a message of 3 bytes. -/
def execCh9 (c : BitVec 4) (s : State) : Host.Outcome State Fault Refusal := .next (feed (Instr.ch9 c).byte s)

/-- `CHA` (rule R105): opens a message of 3 bytes. -/
def execChA (c : BitVec 4) (s : State) : Host.Outcome State Fault Refusal := .next (feed (Instr.chA c).byte s)

/-- `CHB` (rule R106): opens a message of 3 bytes. -/
def execChB (c : BitVec 4) (s : State) : Host.Outcome State Fault Refusal := .next (feed (Instr.chB c).byte s)

/-- `CHC` (rule R107): opens a message of 2 bytes. -/
def execChC (c : BitVec 4) (s : State) : Host.Outcome State Fault Refusal := .next (feed (Instr.chC c).byte s)

/-- `CHD` (rule R108): opens a message of 2 bytes. -/
def execChD (c : BitVec 4) (s : State) : Host.Outcome State Fault Refusal := .next (feed (Instr.chD c).byte s)

/-- `CHE` (rule R109): opens a message of 3 bytes. -/
def execChE (c : BitVec 4) (s : State) : Host.Outcome State Fault Refusal := .next (feed (Instr.chE c).byte s)

end Sys2Proof.Machine
end

