-- ==== Sys2Proof/Machine/DataByte.lean ====
section
/-! DEFINITION. The meaning of the row `DATA`: a data byte. -/

namespace Sys2Proof.Machine

/-- `DATA` (rules R115, R135, R136, R137, R140): with `len = 0` a running-status continuation or an orphan, later an
operand, on a full buffer an overflow and an orphan. -/
def execData (d : BitVec 7) (s : State) : Host.Outcome State Fault Refusal := .next (feed (Instr.data d).byte s)

end Sys2Proof.Machine
end

