-- ==== Sys2Proof/Machine/OneByte.lean ====
section
/-! DEFINITION. The meanings of `SYS_F4` to `SYS_FF` (rule R114). With `len = 0` the byte is a message of its own and the
running status stays (rule R133), later it is an operand (rules R137, R150), on a full buffer it is emitted alone after
the overflow (rule R140). -/

namespace Sys2Proof.Machine

/-- `SYS_F4` (rule R114): the one-byte message `[F4]`. -/
def execSysF4 (s : State) : Host.Outcome State Fault Refusal := .next (feed Instr.sysF4.byte s)

/-- `SYS_F5` (rule R114): the one-byte message `[F5]`. -/
def execSysF5 (s : State) : Host.Outcome State Fault Refusal := .next (feed Instr.sysF5.byte s)

/-- `SYS_F6` (rule R114): the one-byte message `[F6]`. -/
def execSysF6 (s : State) : Host.Outcome State Fault Refusal := .next (feed Instr.sysF6.byte s)

/-- `SYS_F7` (rule R114): the one-byte message `[F7]`. As a later byte of a sysex message it ends it (rule R79). -/
def execSysF7 (s : State) : Host.Outcome State Fault Refusal := .next (feed Instr.sysF7.byte s)

/-- `SYS_F8` (rule R114): the one-byte message `[F8]`. -/
def execSysF8 (s : State) : Host.Outcome State Fault Refusal := .next (feed Instr.sysF8.byte s)

/-- `SYS_F9` (rule R114): the one-byte message `[F9]`. -/
def execSysF9 (s : State) : Host.Outcome State Fault Refusal := .next (feed Instr.sysF9.byte s)

/-- `SYS_FA` (rule R114): the one-byte message `[FA]`. -/
def execSysFA (s : State) : Host.Outcome State Fault Refusal := .next (feed Instr.sysFA.byte s)

/-- `SYS_FB` (rule R114): the one-byte message `[FB]`. -/
def execSysFB (s : State) : Host.Outcome State Fault Refusal := .next (feed Instr.sysFB.byte s)

/-- `SYS_FC` (rule R114): the one-byte message `[FC]`. -/
def execSysFC (s : State) : Host.Outcome State Fault Refusal := .next (feed Instr.sysFC.byte s)

/-- `SYS_FD` (rule R114): the one-byte message `[FD]`. -/
def execSysFD (s : State) : Host.Outcome State Fault Refusal := .next (feed Instr.sysFD.byte s)

/-- `SYS_FE` (rule R114): the one-byte message `[FE]`. -/
def execSysFE (s : State) : Host.Outcome State Fault Refusal := .next (feed Instr.sysFE.byte s)

/-- `SYS_FF` (rule R114): the one-byte message `[FF]`. -/
def execSysFF (s : State) : Host.Outcome State Fault Refusal := .next (feed Instr.sysFF.byte s)

end Sys2Proof.Machine
end

