-- ==== Sys2Proof/Machine/SystemCommon.lean ====
section
/-! DEFINITION. The meanings of `SYSEX` and `SYS_F1` to `SYS_F3` (rules R110 to R113): like the channel rows they open a
message and become the running status (rules R28, R132), and as later bytes they are operands (rules R137, R151). -/

namespace Sys2Proof.Machine

/-- `SYSEX` (rule R110): opens a message that ends with the first later `0xF7` (rule R151). -/
def execSysex (s : State) : Host.Outcome State Fault Refusal := .next (feed Instr.sysex.byte s)

/-- `SYS_F1` (rule R111): opens a message of 2 bytes. -/
def execSysF1 (s : State) : Host.Outcome State Fault Refusal := .next (feed Instr.sysF1.byte s)

/-- `SYS_F2` (rule R112): opens a message of 3 bytes. -/
def execSysF2 (s : State) : Host.Outcome State Fault Refusal := .next (feed Instr.sysF2.byte s)

/-- `SYS_F3` (rule R113): opens a message of 2 bytes. -/
def execSysF3 (s : State) : Host.Outcome State Fault Refusal := .next (feed Instr.sysF3.byte s)

end Sys2Proof.Machine
end

