-- ==== Sys2Proof/Machine/Dispatch.lean ====
section
/-! DEFINITION. One arm per instruction. -/

namespace Sys2Proof.Machine

def exec (i : Instr) (s : State) : Host.Outcome State Fault Refusal :=
  match i with
  | .data d => Sys2Proof.Machine.execData d s
  | .ch8 c => Sys2Proof.Machine.execCh8 c s
  | .ch9 c => Sys2Proof.Machine.execCh9 c s
  | .chA c => Sys2Proof.Machine.execChA c s
  | .chB c => Sys2Proof.Machine.execChB c s
  | .chC c => Sys2Proof.Machine.execChC c s
  | .chD c => Sys2Proof.Machine.execChD c s
  | .chE c => Sys2Proof.Machine.execChE c s
  | .sysex => Sys2Proof.Machine.execSysex s
  | .sysF1 => Sys2Proof.Machine.execSysF1 s
  | .sysF2 => Sys2Proof.Machine.execSysF2 s
  | .sysF3 => Sys2Proof.Machine.execSysF3 s
  | .sysF4 => Sys2Proof.Machine.execSysF4 s
  | .sysF5 => Sys2Proof.Machine.execSysF5 s
  | .sysF6 => Sys2Proof.Machine.execSysF6 s
  | .sysF7 => Sys2Proof.Machine.execSysF7 s
  | .sysF8 => Sys2Proof.Machine.execSysF8 s
  | .sysF9 => Sys2Proof.Machine.execSysF9 s
  | .sysFA => Sys2Proof.Machine.execSysFA s
  | .sysFB => Sys2Proof.Machine.execSysFB s
  | .sysFC => Sys2Proof.Machine.execSysFC s
  | .sysFD => Sys2Proof.Machine.execSysFD s
  | .sysFE => Sys2Proof.Machine.execSysFE s
  | .sysFF => Sys2Proof.Machine.execSysFF s

end Sys2Proof.Machine
end

