-- ==== Sys2Proof/Machine/Step.lean ====
section
/-! DEFINITION. One step of the block (rules R8, R52): a reset step, a `feed`, or an idle step. -/

namespace Sys2Proof.Machine

/-- One step on the next presented input (rule R52). Reset wins over a byte presented with it (rule R191); a byte is
decoded and executed; with no byte, or no input left, nothing changes and nothing is emitted. -/
def step (s : State) : Host.Outcome State Fault Refusal :=
  match s.input with
  | [] => .next s.idleStep
  | p :: _ =>
    if p.rst then .next s.takeInput.resetStep
    else if p.inValid then exec (decodeByte p.inData) s.takeInput
    else .next s.takeInput.idleStep

/-- `s` with the instruction whose bits are `w` presented next, so that the next step runs it (log entry 10). -/
def State.withFetchWord (s : State) (nbits w : Nat) : State := s.present (tableByte nbits w)

end Sys2Proof.Machine
end

