-- ==== Sys2Proof/Safety.lean ====
section
/-! DEFINITION. What claims speak of: the invariants at a step boundary (rule R32), runs that lost nothing (rule R177),
and how messages stand on the wire (rules R72, R81). -/

namespace Sys2Proof.Machine

/-- The invariants of rule R32 for a block of capacity `cap`, item by item. -/
structure State.InvAt (cap : Nat) (s : State) : Prop where
  /-- Item 1: `0 <= len <= BUF_CAP`. -/
  lenLe : s.len ≤ cap
  /-- Item 2: the buffer starts with a status byte, `0x80 <= buf[0] <= 0xF3`. -/
  firstIsStatus : ∀ op xs, s.buf = op :: xs → 0x80#8 ≤ op ∧ op ≤ 0xF3#8
  /-- Item 3: a complete buffer never survives a step. -/
  incomplete : ∀ n, s.buf ≠ [] → classify s.buf = .len n → s.len < n
  /-- Item 4: the running status is the first byte of the buffer. -/
  firstIsRs : ∀ op xs, s.buf = op :: xs → s.rs = some op
  /-- Item 5 (rule R28): `0x80 <= rs <= 0xF3`. -/
  rsIsStatus : ∀ r, s.rs = some r → 0x80#8 ≤ r ∧ r ≤ 0xF3#8
  /-- Item 6: only a buffer that starts `0xF0` reaches `len >= 3`. -/
  shortUnlessSysex : ∀ op xs, s.buf = op :: xs → op ≠ 0xF0#8 → s.len ≤ 2
  /-- Item 7: no later byte of a sysex buffer is `0xF7`. -/
  noTerminator : ∀ xs, s.buf = 0xF0#8 :: xs → 0xF7#8 ∉ xs

/-- The invariants of rule R32 for this block. -/
def State.Inv (s : State) : Prop := s.InvAt Config.bufCap

/-- The instructions whose byte is a data byte: `DATA`. -/
def isData : Instr → Bool
  | .data _ => true
  | .ch8 _ | .ch9 _ | .chA _ | .chB _ | .chC _ | .chD _ | .chE _ => false
  | .sysex | .sysF1 | .sysF2 | .sysF3 => false
  | .sysF4 | .sysF5 | .sysF6 | .sysF7 | .sysF8 | .sysF9 => false
  | .sysFA | .sysFB | .sysFC | .sysFD | .sysFE | .sysFF => false

/-- The instructions that open a message as first bytes: `CH8` to `CHE`, `SYSEX`, `SYS_F1`, `SYS_F2`, `SYS_F3`. -/
def opensMessage : Instr → Bool
  | .data _ => false
  | .ch8 _ | .ch9 _ | .chA _ | .chB _ | .chC _ | .chD _ | .chE _ => true
  | .sysex | .sysF1 | .sysF2 | .sysF3 => true
  | .sysF4 | .sysF5 | .sysF6 | .sysF7 | .sysF8 | .sysF9 => false
  | .sysFA | .sysFB | .sysFC | .sysFD | .sysFE | .sysFF => false

/-- The instructions that are a whole message as first bytes: `SYS_F4` to `SYS_FF`. -/
def standsAlone : Instr → Bool
  | .data _ => false
  | .ch8 _ | .ch9 _ | .chA _ | .chB _ | .chC _ | .chD _ | .chE _ => false
  | .sysex | .sysF1 | .sysF2 | .sysF3 => false
  | .sysF4 | .sysF5 | .sysF6 | .sysF7 | .sysF8 | .sysF9 => true
  | .sysFA | .sysFB | .sysFC | .sysFD | .sysFE | .sysFF => true

/-- The first bytes of the three-byte format M3 (rule R72): `0x80` to `0xBF`, `0xE0` to `0xEF`, `0xF2`. -/
def takesThree (op : Byte) : Prop := 0x80#8 ≤ op ∧ op ≤ 0xBF#8 ∨ 0xE0#8 ≤ op ∧ op ≤ 0xEF#8 ∨ op = 0xF2#8

/-- The first bytes of the two-byte format M2 (rule R72): `0xC0` to `0xDF`, `0xF1`, `0xF3`. -/
def takesTwo (op : Byte) : Prop := 0xC0#8 ≤ op ∧ op ≤ 0xDF#8 ∨ op = 0xF1#8 ∨ op = 0xF3#8

/-- No byte was dropped since reset (rules R30, R177): both flags are 0. -/
def State.lossless (s : State) : Prop := s.ovf = false ∧ s.orphan = false

/-- Every message emitted so far has the shape of rule R144, and the message presented by the last step, if any, is the
last of them. -/
def State.StreamInv (s : State) : Prop :=
  (∀ m ∈ s.emitted, messageWf Config.bufCap m = true) ∧ (∀ m, s.msg = some m → s.emitted.getLast? = some m)

/-- The running status after the message `m` when it was `rs` before (rules R27, R146). -/
def statusAfter (rs : Option Byte) : Message → Option Byte
  | [] => rs
  | op :: _ => if setsStatus op then some op else rs

/-- May the message leave its status byte out while the running status is `rs` (rule R81)? Its status byte is the
running status, and its first operand is a data byte. -/
def shortOk (rs : Option Byte) : Message → Bool
  | op :: d :: _ => rs == some op && !isStatus d
  | _ => false

/-- The bytes sent for a message: all of them, or, in the short form (`true`), all but the status byte (rule R81). -/
def sentBytes (p : Message × Bool) : List Byte := if p.2 then p.1.tail else p.1

/-- The bytes sent for a sequence of messages, each in the form said. -/
def wireBytes (ms : List (Message × Bool)) : List Byte := ms.flatMap sentBytes

/-- A sequence of messages, each in full or short form, that a sender can send to a block of capacity `cap` whose
running status is `rs`: each has the shape of rule R144 and uses the short form only where rule R81 has one. -/
def wireOk (cap : Nat) : Option Byte → List (Message × Bool) → Bool
  | _, [] => true
  | rs, (m, short) :: ms => messageWf cap m && (!short || shortOk rs m) && wireOk cap (statusAfter rs m) ms

/-- `s` with `m` put out as this step's message and the buffer emptied (rules R55, R139). -/
def State.sent (m : Message) (s : State) : State :=
  { s with buf := [], msg := some m, emitted := s.emitted ++ [m] }

/-- The message as it stands after a step: the one the step put out, or else the buffer. -/
def State.assembled (s : State) : Message := s.msg.getD s.buf

/-- `s` with the bytes `bs`, a program as rule R83 writes one, presented next, one a step (rules R52, R53). -/
def State.presentAll (bs : List Byte) (s : State) : State := { s with input := bs.map byteIn ++ s.input }

/-- The outcome of `bs.length` steps from `s` when the bytes `bs` are presented in them. -/
def runBytes (bs : List Byte) (s : State) : Host.Outcome State Fault Refusal :=
  Host.Core.run Sys2Proof.core bs.length (s.presentAll bs)

end Sys2Proof.Machine
end

