-- ==== Sys2Proof/Certificates/Slice0/Obligations.lean ====
section
/-! DEFINITION. The statements for the provers. Each docstring names the rules of spec/ it rests on. `emitted` is rule
R10's "sequence of messages emitted so far", `msg` the output of the step (rule R55), `input` the bytes still to be
presented (rule R50). -/

open Sys2Proof Sys2Proof.Machine

/-- Rule R33: `len = 0`, `rs_valid = 0`, both flags 0 and `msg_valid = 0` after reset. Of `buf[i]` and `rs`, which the rule
leaves unspecified and unobservable, nothing is stated. -/
def Obligations.ResetStateHoldsTheSpecsValues : Prop :=
  State.reset.len = 0 ∧ State.reset.rsValid = false ∧ State.reset.flags = 0 ∧ State.reset.ovf = false ∧
    State.reset.orphan = false ∧ State.reset.msgValid = false

/-- Rules R190, R191: a step with `rst = 1` sets `len`, `rs_valid` and both flags to 0 and emits nothing, whatever
`in_valid` and `in_data` are and whatever the state was. -/
def Obligations.ResetStepClearsTheBlock : Prop :=
  ∀ (s : State) (v : Bool) (b : Byte) (rest : List InPort), s.input = ⟨true, v, b⟩ :: rest →
    ∃ t, step s = .next t ∧ t.len = 0 ∧ t.rsValid = false ∧ t.ovf = false ∧ t.orphan = false ∧ t.msgValid = false ∧
      t.emitted = s.emitted

/-- The whole state after a reset step. That the buffer and the running status hold no value then, that the
messages already emitted stay and that only this step's input is consumed is the model's choice (log entries 3, 4, 6 and
11). -/
def Obligations.ResetStepKeepsTheStreams : Prop :=
  ∀ (s : State) (p : InPort) (rest : List InPort), s.input = p :: rest → p.rst = true →
    step s = .next { State.reset with emitted := s.emitted, input := rest }

/-- Rule R52: a step with `rst = 0` and `in_valid = 0` changes no state and emits nothing. That the source presents
nothing once `input` is used up is the model's choice (log entry 6). -/
def Obligations.IdleStepChangesNothing : Prop :=
  (∀ (s : State) (b : Byte) (rest : List InPort), s.input = ⟨false, false, b⟩ :: rest →
    step s = .next { s with msg := none, input := rest }) ∧
  (∀ s : State, s.input = [] → step s = .next { s with msg := none })

/-- First clause (rules R8, R11, R52): a step with `rst = 0` and `in_valid = 1` runs the instruction its byte decodes to, on
the state with that input taken off. That a byte which is not the first of a message decodes to the row of its value too is
the model's reading (DEDUCED, log entry 1; rule R76 decodes the "first byte of a buffer"), and that the inputs still to
come are a list is the model's choice (DESIGN CHOICE, log entry 6). Second clause: a step after `withFetchWord` runs what
the table word decodes to; it rests on no rule but on the model's choice of table words (DESIGN CHOICE, log entry 10). -/
def Obligations.StepRunsTheDecodedInstruction : Prop :=
  (∀ (s : State) (b : Byte) (rest : List InPort) (i : Instr), s.input = ⟨false, true, b⟩ :: rest →
    decode [b] = .ok (i, []) → step s = exec i { s with input := rest }) ∧
  (∀ (s : State) (w : Nat) (i : Instr), decodeTableWord 8 w = some i → step (s.withFetchWord 8 w) = exec i s)

/-- Words written out from the encoding column of rule R75 decode to their rows. -/
def Obligations.WrittenOutWordsDecode : Prop :=
  decode [0b01000001#8] = .ok (.data 0b1000001#7, []) ∧ decode [0b10001111#8] = .ok (.ch8 0b1111#4, []) ∧
    decode [0b11000101#8, 0b00001010#8] = .ok (.chC 0b0101#4, [0b00001010#8]) ∧
    decode [0b11101110#8] = .ok (.chE 0b1110#4, []) ∧ decode [0b11110000#8] = .ok (.sysex, []) ∧
    decode [0b11110011#8] = .ok (.sysF3, []) ∧ decode [0b11110111#8] = .ok (.sysF7, []) ∧
    decode [0b11111111#8] = .ok (.sysFF, []) ∧ decode [] = .error .noByte

/-- Decoding an encoded instruction gives it back with the rest of the bytes, and encoding what a byte decodes to gives
the byte back: every byte is exactly one instruction with every operand value (rules R75, R76). -/
def Obligations.DecodeAndEncodeAgree : Prop :=
  (∀ (i : Instr) (rest : List Byte), i.wellFormed = true → decode (encode i ++ rest) = .ok (i, rest)) ∧
  (∀ (b : Byte) (rest : List Byte), ∃ i, decode (b :: rest) = .ok (i, rest) ∧ encode i = [b])

/-- Rules R72, R75, R76: the 24 rows of the opcode table are disjoint and cover every byte, each byte decodes to its row,
the table's two flag columns say what rule R76 says of them, and its format column agrees with the classifier. -/
def Obligations.OpcodeRowsPartitionTheBytes : Prop :=
  opcodeTable.length = 24 ∧
  (∀ b : Byte, opcodeTable.filter (fun r => b &&& r.mask == r.pat) = [(decodeByte b).row]) ∧
  (∀ b : Byte, ((decodeByte b).row.setsRunningStatus = true ↔ 0x80#8 ≤ b ∧ b ≤ 0xF3#8) ∧
    ((decodeByte b).row.isOpcode = true ↔ 0x80#8 ≤ b)) ∧
  (∀ b : Byte, ((decodeByte b).row.format = .m1 ↔ classify [b] = .len 1) ∧
    ((decodeByte b).row.format = .m2 ↔ classify [b] = .len 2) ∧
    ((decodeByte b).row.format = .m3 ↔ classify [b] = .len 3) ∧
    ((decodeByte b).row.format = .mx ↔ b = 0xF0#8) ∧ ((decodeByte b).row.format = .none ↔ b < 0x80#8))

/-- Rule R116: the classifier by ranges of the first byte, over sequences of every length; the counts over one-byte
sequences; the masked rows are reached only below `0xF0`, and "otherwise" is exactly the data bytes. -/
def Obligations.ClassifierPartitionsFirstBytes : Prop :=
  (∀ (op : Byte) (xs : List Byte),
    (op ≤ 0x7F#8 → classify (op :: xs) = .unknown) ∧
    (0x80#8 ≤ op → op ≤ 0xBF#8 → classify (op :: xs) = .len 3) ∧
    (0xC0#8 ≤ op → op ≤ 0xDF#8 → classify (op :: xs) = .len 2) ∧
    (0xE0#8 ≤ op → op ≤ 0xEF#8 → classify (op :: xs) = .len 3) ∧
    (op = 0xF0#8 → classify (op :: xs) = .len (xs.length + 1) ∨ classify (op :: xs) = .unknown) ∧
    (op = 0xF1#8 ∨ op = 0xF3#8 → classify (op :: xs) = .len 2) ∧
    (op = 0xF2#8 → classify (op :: xs) = .len 3) ∧
    (0xF4#8 ≤ op → classify (op :: xs) = .len 1)) ∧
  ((List.range 256).countP (fun n => classify [BitVec.ofNat 8 n] == .unknown) = 129 ∧
    (List.range 256).countP (fun n => classify [BitVec.ofNat 8 n] == .len 3) = 81 ∧
    (List.range 256).countP (fun n => classify [BitVec.ofNat 8 n] == .len 2) = 34 ∧
    (List.range 256).countP (fun n => classify [BitVec.ofNat 8 n] == .len 1) = 12) ∧
  (∀ op : Byte, typeNibble op ∈ ([0x80#8, 0x90#8, 0xA0#8, 0xB0#8, 0xE0#8, 0xC0#8, 0xD0#8] : List Byte) → op < 0xF0#8) ∧
  (∀ op : Byte, op < 0xF0#8 ∧ typeNibble op ∉ ([0x80#8, 0x90#8, 0xA0#8, 0xB0#8, 0xE0#8, 0xC0#8, 0xD0#8] : List Byte) ↔ op < 0x80#8)

/-- Rule R117: off `0xF0` the verdict is `Unknown` or a length 1, 2 or 3 and is the same for every extension; on `0xF0`
it is `Unknown` or the sequence's own length, at least 2, and depends on the length and the last byte alone. -/
def Obligations.ClassifierVerdictIsBounded : Prop :=
  (∀ (op : Byte) (xs ys : List Byte), op ≠ 0xF0#8 →
    classify (op :: xs) = classify (op :: ys) ∧
    (classify (op :: xs) = .unknown ∨ classify (op :: xs) = .len 1 ∨ classify (op :: xs) = .len 2 ∨
      classify (op :: xs) = .len 3)) ∧
  (∀ xs : List Byte, classify (0xF0#8 :: xs) = .unknown ∨
    (classify (0xF0#8 :: xs) = .len (xs.length + 1) ∧ 2 ≤ xs.length + 1)) ∧
  (∀ xs ys : List Byte, xs.length = ys.length → xs.getLast? = ys.getLast? →
    classify (0xF0#8 :: xs) = classify (0xF0#8 :: ys))

/-- Rules R102 to R115: the verdict of every row of the opcode map, whatever bytes follow, and of the empty buffer. -/
def Obligations.EveryRowHasItsVerdict : Prop :=
  classify [] = .unknown ∧
  ∀ (xs : List Byte),
    (∀ d, classify ((Instr.data d).byte :: xs) = .unknown) ∧
    (∀ c, ∀ i ∈ [Instr.ch8 c, .ch9 c, .chA c, .chB c, .chE c, .sysF2], classify (i.byte :: xs) = .len 3) ∧
    (∀ c, ∀ i ∈ [Instr.chC c, .chD c, .sysF1, .sysF3], classify (i.byte :: xs) = .len 2) ∧
    (∀ i ∈ [Instr.sysF4, .sysF5, .sysF6, .sysF7, .sysF8, .sysF9, .sysFA, .sysFB, .sysFC, .sysFD, .sysFE, .sysFF],
      classify (i.byte :: xs) = .len 1) ∧
    classify (Instr.sysex.byte :: (xs ++ [0xF7#8])) = .len (xs.length + 2) ∧
    (xs.getLast? ≠ some 0xF7#8 → classify (Instr.sysex.byte :: xs) = .unknown)

/-- Rules R9, R71: the classifier does not look at the channel. -/
def Obligations.ClassifierIgnoresTheChannel : Prop :=
  ∀ (op op' : Byte) (xs ys : List Byte), op < 0xF0#8 → typeNibble op = typeNibble op' →
    classify (op :: xs) = classify (op' :: ys)

/-- Rule R132, case A: a first byte `0x80` to `0xF3` (`CH8` to `CHE`, `SYSEX`, `SYS_F1`, `SYS_F2`, `SYS_F3`) is stored and
recorded as the running status, whatever that was; the step emits nothing; nothing else changes. -/
def Obligations.FirstStatusByteOpensAMessage : Prop :=
  (∀ i, opensMessage i = true ↔ 0x80#8 ≤ i.byte ∧ i.byte ≤ 0xF3#8) ∧
  (∀ i, opensMessage i = true → classify [i.byte] ≠ .len 1) ∧
  ∀ (i : Instr) (s : State), opensMessage i = true → s.buf = [] →
    exec i s = .next { s with buf := [i.byte], rs := some i.byte, msg := none }

/-- Rule R133, case B: a first byte `0xF4` to `0xFF` (`SYS_F4` to `SYS_FF`) is emitted alone; no state of the block
changes, the running status neither when it is held nor when it is none. -/
def Obligations.FirstOneByteMessageIsEmittedAtOnce : Prop :=
  (∀ i, standsAlone i = true ↔ 0xF4#8 ≤ i.byte) ∧
  ∀ (i : Instr) (s : State), standsAlone i = true → s.buf = [] →
    exec i s = .next { s with msg := some [i.byte], emitted := s.emitted ++ [[i.byte]] }

/-- Rule R135, case C: a first data byte (`DATA`) while there is a running status `r` in `0x80` to `0xF3` makes the
buffer `[r, b]`: kept for a three-byte status, emitted at once for a two-byte status, kept for `0xF0`. Nothing else
changes. The range of `r` is the invariant of `StepKeepsTheInvariants`. -/
def Obligations.FirstDataByteContinuesRunningStatus : Prop :=
  ∀ (d : BitVec 7) (s : State) (r : Byte), s.buf = [] → s.rs = some r → 0x80#8 ≤ r → r ≤ 0xF3#8 →
    (takesThree r → exec (.data d) s = .next { s with buf := [r, (Instr.data d).byte], msg := none }) ∧
    (takesTwo r → exec (.data d) s = .next { s with
      msg := some [r, (Instr.data d).byte], emitted := s.emitted ++ [[r, (Instr.data d).byte]] }) ∧
    (r = 0xF0#8 → exec (.data d) s = .next { s with buf := [0xF0#8, (Instr.data d).byte], msg := none })

/-- Rule R136, case D: a first data byte (`DATA`) while the running status is none is discarded: only
`FLAGS.orphan` is set, and nothing is emitted. -/
def Obligations.FirstDataByteWithoutStatusIsOrphan : Prop :=
  ∀ (d : BitVec 7) (s : State), s.buf = [] → s.rs = none →
    exec (.data d) s = .next { s with orphan := true, msg := none }

/-- Rule R137, case E: while a message is being assembled and the buffer has room, every instruction appends its byte
and classifies: a complete buffer is emitted, an incomplete one is kept; the running status, the flags and the inputs do
not change. -/
def Obligations.LaterByteIsAppendedWhateverItIs : Prop :=
  ∀ (i : Instr) (s : State), s.buf ≠ [] → s.len < Config.bufCap →
    ((∃ n, classify (s.buf ++ [i.byte]) = .len n ∧ n ≤ s.len + 1) →
      exec i s = .next (s.sent (s.buf ++ [i.byte]))) ∧
    ((∀ n, classify (s.buf ++ [i.byte]) = .len n → s.len + 1 < n) →
      exec i s = .next { s with buf := s.buf ++ [i.byte], msg := none })

/-- Rules R145, R147, R151: when a message is complete, said by its format. A two-byte message completes at its second
byte and a three-byte one at its third, whatever the bytes; a sysex message completes at a later byte `0xF7` and at no
other. In every case the running status and the flags stay. -/
def Obligations.MessageCompletesByItsFormat : Prop :=
  ∀ (i : Instr) (s : State), s.len < Config.bufCap →
    (∀ op, s.buf = [op] → takesTwo op → exec i s = .next (s.sent [op, i.byte])) ∧
    (∀ op, s.buf = [op] → takesThree op → exec i s = .next { s with buf := [op, i.byte], msg := none }) ∧
    (∀ op x, s.buf = [op, x] → takesThree op → exec i s = .next (s.sent [op, x, i.byte])) ∧
    (∀ xs, s.buf = 0xF0#8 :: xs → i.byte = 0xF7#8 → exec i s = .next (s.sent (0xF0#8 :: xs ++ [0xF7#8]))) ∧
    (∀ xs, s.buf = 0xF0#8 :: xs → i.byte ≠ 0xF7#8 → exec i s = .next { s with buf := 0xF0#8 :: xs ++ [i.byte], msg := none })

/-- Rule R172 with rule R140, case F: on a full buffer every instruction sets `FLAGS.ovf`, drops the buffer without
emitting it, clears the running status, and is then a first byte; and by the invariants only a sysex buffer with no
`0xF7` in it can be full. -/
def Obligations.FullBufferOverflows : Prop :=
  (∀ (i : Instr) (s : State), s.len = Config.bufCap →
    (isData i = true → exec i s = .next { s with buf := [], rs := none, ovf := true, orphan := true, msg := none }) ∧
    (opensMessage i = true →
      exec i s = .next { s with buf := [i.byte], rs := some i.byte, ovf := true, msg := none }) ∧
    (standsAlone i = true → exec i s = .next { s with
      buf := [], rs := none, ovf := true, msg := some [i.byte], emitted := s.emitted ++ [[i.byte]] })) ∧
  (∀ s : State, s.Inv → s.len = Config.bufCap → ∃ xs, s.buf = 0xF0#8 :: xs ∧ 0xF7#8 ∉ xs)

/-- Rules R54, R130, R147, R206: `feed` is total and the block never halts: no instruction and no step ends in a fault or
a refusal, in any state. -/
def Obligations.NoInstructionAndNoStepStops : Prop :=
  (∀ (i : Instr) (s : State), ∃ t, exec i s = .next t) ∧ (∀ s : State, ∃ t, step s = .next t)

/-- Rule R142: at most one message per instruction, only in the step of its last byte, and the buffer is empty after it. -/
def Obligations.AtMostOneMessagePerByte : Prop :=
  ∀ (i : Instr) (s t : State), exec i s = .next t →
    (t.msg = none ∧ t.emitted = s.emitted) ∨
    (∃ m, t.msg = some m ∧ t.emitted = s.emitted ++ [m] ∧ m.getLast? = some i.byte ∧ t.len = 0)

/-- The frame of every instruction (rules R24, R27, R30, R137, R171, R172): the inputs still to come and the messages
already emitted stay; the flags and the running status change only where a rule says so; between the events of rule R24
the buffer only grows. -/
def Obligations.InstructionsLeaveTheRestUnchanged : Prop :=
  ∀ (i : Instr) (s t : State), exec i s = .next t →
    t.input = s.input ∧ s.emitted <+: t.emitted ∧
    (s.len ≠ Config.bufCap → t.ovf = s.ovf) ∧
    (isData i = false ∨ s.rs ≠ none ∧ s.len ≠ Config.bufCap → t.orphan = s.orphan) ∧
    (s.len ≠ Config.bufCap → (s.buf ≠ [] ∨ opensMessage i = false) → t.rs = s.rs) ∧
    (s.len ≠ Config.bufCap → t.msg = none → s.buf <+: t.buf)

/-- Rule R27: the complete list of the writers of the running status, over every step. -/
def Obligations.RunningStatusHasTheseWriters : Prop :=
  ∀ s t : State, step s = .next t →
    (s.input = [] → t.rs = s.rs) ∧
    ∀ p rest, s.input = p :: rest →
      (p.rst = true → t.rs = none) ∧
      (p.rst = false → p.inValid = false → t.rs = s.rs) ∧
      (p.rst = false → p.inValid = true →
        (0x80#8 ≤ p.inData → p.inData ≤ 0xF3#8 → s.len = 0 ∨ s.len = Config.bufCap → t.rs = some p.inData) ∧
        (p.inData < 0x80#8 ∨ 0xF4#8 ≤ p.inData → s.len = Config.bufCap → t.rs = none) ∧
        (p.inData < 0x80#8 ∨ 0xF4#8 ≤ p.inData → s.len ≠ Config.bufCap → t.rs = s.rs) ∧
        (s.len ≠ 0 → s.len ≠ Config.bufCap → t.rs = s.rs))

/-- Rule R30: `FLAGS` has two bits; each is set by its condition only, cleared by reset only, and read by no rule, so
that no flag changes which messages are emitted. -/
def Obligations.FlagsAreStickyAndUnread : Prop :=
  (∀ s : State, (s.flags.getLsbD 0 = s.ovf ∧ s.flags.getLsbD 1 = s.orphan) ∧
    s.flagOvf = s.ovf ∧ s.flagOrphan = s.orphan) ∧
  (∀ s t : State, step s = .next t →
    (s.input = [] → t.ovf = s.ovf ∧ t.orphan = s.orphan) ∧
    ∀ p rest, s.input = p :: rest →
      (p.rst = true → t.ovf = false ∧ t.orphan = false) ∧
      (p.rst = false → p.inValid = false → t.ovf = s.ovf ∧ t.orphan = s.orphan) ∧
      (p.rst = false → p.inValid = true →
        (t.ovf = true ↔ s.ovf = true ∨ s.len = Config.bufCap) ∧
        (t.orphan = true ↔ s.orphan = true ∨
          p.inData < 0x80#8 ∧ (s.len = Config.bufCap ∨ s.len = 0 ∧ s.rsValid = false)))) ∧
  (∀ (s t t' : State) (v o : Bool), step s = .next t → step { s with ovf := v, orphan := o } = .next t' →
    t'.buf = t.buf ∧ t'.rs = t.rs ∧ t'.msg = t.msg ∧ t'.emitted = t.emitted)

/-- Rules R10, R30, R31: what a block does with a byte stream depends on its buffer, its running status and the bytes
alone. Two states that agree on those emit the same messages over any stream, whatever their flags and whatever they
emitted before. -/
def Obligations.BehaviourDependsOnBufferAndStatusAlone : Prop :=
  ∀ (bs : List Byte) (s₁ s₂ : State), s₁.buf = s₂.buf → s₁.rs = s₂.rs →
    ∃ t₁ t₂ ms, runBytes bs s₁ = .next t₁ ∧ runBytes bs s₂ = .next t₂ ∧ t₁.buf = t₂.buf ∧ t₁.rs = t₂.rs ∧
      t₁.emitted = s₁.emitted ++ ms ∧ t₂.emitted = s₂.emitted ++ ms

/-- Rule R32 at reset: the invariants hold after reset. -/
def Obligations.ResetStateMeetsTheInvariants : Prop := State.reset.Inv ∧ State.reset.StreamInv

/-- Rules R28, R32: from every state that meets the seven invariants of rule R32, every step gives a state that meets
them; and a reset step gives such a state from any state at all. -/
def Obligations.StepKeepsTheInvariants : Prop :=
  (∀ s t : State, s.Inv → step s = .next t → t.Inv) ∧
  (∀ (s t : State) (p : InPort) (rest : List InPort), s.input = p :: rest → p.rst = true → step s = .next t → t.Inv)

/-- Rule R143: the length of every emitted message equals the classifier's verdict on it. The premise is the invariant
of `StepKeepsTheInvariants`. -/
def Obligations.EmittedLengthEqualsVerdict : Prop :=
  ∀ (i : Instr) (s t : State) (m : Message), s.Inv → exec i s = .next t → t.msg = some m →
    classify m = .len m.length

/-- Rule R144: the shape of every emitted message. The premise is the invariant of `StepKeepsTheInvariants`. -/
def Obligations.EmittedMessageHasItsShape : Prop :=
  ∀ (i : Instr) (s t : State) (op : Byte) (xs : List Byte), s.Inv → exec i s = .next t → t.msg ≠ some [] ∧
    (t.msg = some (op :: xs) →
      xs.length + 1 ≤ Config.bufCap ∧ 0x80#8 ≤ op ∧
      (0xF4#8 ≤ op → xs.length = 0) ∧ (takesTwo op → xs.length = 1) ∧ (takesThree op → xs.length = 2) ∧
      (op = 0xF0#8 → ∃ ys, xs = ys ++ [0xF7#8] ∧ 0xF7#8 ∉ ys))

/-- Rules R56, R143, R144: every step keeps it true that all messages emitted so far have the shape of rule R144 and
that the message presented is the last of them. -/
def Obligations.StepKeepsTheEmittedStreamWellFormed : Prop :=
  ∀ s t : State, s.Inv → s.StreamInv → step s = .next t → t.StreamInv

/-- 95 section 5 item 6, with rules R63, R81, R145, R146: messages that a sender puts on the wire, each in full form or,
where rule R81 has one, in the short form, come out of a block in the ready state exactly as sent, in order, with no
flag raised; operands of fixed formats may be any bytes. -/
def Obligations.SentMessagesComeThrough : Prop :=
  ∀ (ms : List (Message × Bool)) (s : State), s.buf = [] →
    (∀ r, s.rs = some r → 0x80#8 ≤ r ∧ r ≤ 0xF3#8) → wireOk Config.bufCap s.rs ms = true →
    ∃ t, runBytes (wireBytes ms) s = .next t ∧ t.emitted = s.emitted ++ ms.map Prod.fst ∧ t.buf = [] ∧
      t.rs = (ms.map Prod.fst).foldl statusAfter s.rs ∧ t.ovf = s.ovf ∧ t.orphan = s.orphan ∧ t.input = s.input

/-- Rule R63 items 1 to 5 with 95 section 5 item 5: over any byte stream from the ready state, if no byte was dropped,
the bytes are exactly the messages emitted, each in full form or in a short form that rule R81 allows, and after them the
buffer, without its status byte if that was synthesised. No byte is lost, repeated or moved, and no message is invented. -/
def Obligations.EveryByteIsAccountedFor : Prop :=
  ∀ (bs : List Byte) (s : State), s.Inv → s.buf = [] →
    ∃ t, runBytes bs s = .next t ∧
      (t.lossless → ∃ (ms : List (Message × Bool)) (short : Bool),
        wireOk Config.bufCap s.rs ms = true ∧ t.emitted = s.emitted ++ ms.map Prod.fst ∧
        bs = wireBytes ms ++ sentBytes (t.buf, short) ∧
        (short = true → t.rs = (ms.map Prod.fst).foldl statusAfter s.rs ∧
          shortOk t.rs t.buf = true))

/-- Rule R6: for every finite byte stream, a block whose capacity is at least the stream's length never overflows and
behaves exactly as the document's unbounded one. It holds for every capacity, not for this block's alone. -/
def Obligations.LargeEnoughBufferIsUnbounded : Prop :=
  ∀ (cap : Nat) (bs : List Byte) (s : State), s.buf = [] → s.rs = none → bs.length ≤ cap →
    feedAll cap bs s = bs.foldl (fun t b => feedUnbounded b t) s

/-- Rules R136, R140, R178, R196: with an empty buffer and no running status, the block discards data bytes one by one
and emits only the bytes `0xF4` to `0xFF`, each alone, until a status byte below `0xF4` comes. -/
def Obligations.OrphansUntilTheNextStatusByte : Prop :=
  ∀ (bs : List Byte) (s : State), s.buf = [] → s.rs = none → (∀ b ∈ bs, b < 0x80#8 ∨ 0xF4#8 ≤ b) →
    ∃ t, runBytes bs s = .next t ∧ t.buf = [] ∧ t.rs = none ∧ t.ovf = s.ovf ∧
      (t.orphan = true ↔ s.orphan = true ∨ ∃ b ∈ bs, b < 0x80#8) ∧
      t.emitted = s.emitted ++ (bs.filter (fun b => decide (0xF4#8 ≤ b))).map (fun b => [b])

/-- Rule R151: from the ready state, `0xF0` and bytes other than `0xF7` only fill the buffer, and the `0xF7` after them
emits all of it, terminator included, when it fits; the running status is `0xF0` before and after. -/
def Obligations.SysexIsAssembledUpToItsTerminator : Prop :=
  ∀ (xs : List Byte) (s : State), s.buf = [] → 0xF7#8 ∉ xs →
    classify (0xF0#8 :: xs) = .unknown ∧ classify (0xF0#8 :: xs ++ [0xF7#8]) = .len (xs.length + 2) ∧
    (xs.length + 1 ≤ Config.bufCap →
      runBytes (0xF0#8 :: xs) s = .next { s with buf := 0xF0#8 :: xs, rs := some 0xF0#8, msg := none }) ∧
    (xs.length + 2 ≤ Config.bufCap →
      runBytes (0xF0#8 :: xs ++ [0xF7#8]) s =
        .next (({ s with rs := some 0xF0#8 } : State).sent (0xF0#8 :: xs ++ [0xF7#8])))

/-- Rules R6, R22, R148: `LEN_W` bits hold every value of `len` from 0 to `BUF_CAP`, so `len` never wraps, and one bit
fewer would not do. -/
def Obligations.LenFitsItsField : Prop :=
  Config.bufCap < 2 ^ Config.lenW ∧ 2 ^ (Config.lenW - 1) ≤ Config.bufCap ∧
    ∀ s : State, s.Inv → s.lenField.toNat = s.len

/-- Rule R55: `msg_valid` is 1 in exactly the steps that emit, `msg_len` and `msg_data` then present the whole message
emitted and hold no value otherwise, and `idle` and the flag outputs show the state after the step. -/
def Obligations.OutputPortsShowTheStep : Prop :=
  ∀ s t : State, step s = .next t →
    (t.msgValid = true ↔ t.emitted ≠ s.emitted) ∧
    (∀ m, t.emitted = s.emitted ++ [m] → t.msgLen = some m.length ∧ ∀ k, t.msgData k = m[k]?) ∧
    (t.msgValid = false → t.msgLen = none ∧ ∀ k, t.msgData k = none) ∧
    (t.idle = true ↔ t.len = 0) ∧ t.flagOvf = t.ovf ∧ t.flagOrphan = t.orphan

/-- Rules R81, R83: the running-status short form is the one pseudo-form, and the block itself expands it. From the
ready state a data byte under the running status `r`, with any bytes after it, has the same outcome as `r`, that byte and
the bytes after it: the sink cannot tell the two apart. The range of `r` is the invariant of `StepKeepsTheInvariants`.
No other byte is expanded or rewritten: it is appended as it is, or stands alone where the buffer was dropped, or is
dropped as an orphan. -/
def Obligations.ShortFormIsTheOnlyPseudoForm : Prop :=
  (∀ (s : State) (r d : Byte) (bs : List Byte), s.buf = [] → s.rs = some r → 0x80#8 ≤ r → r ≤ 0xF3#8 → d < 0x80#8 →
    ∃ t, runBytes (d :: bs) s = .next t ∧ runBytes (r :: d :: bs) s = .next t) ∧
  (∀ (i : Instr) (s t : State), exec i s = .next t →
    (∀ r, s.buf = [] → isData i = true → s.rs = some r → t.assembled = [r, i.byte]) ∧
    (s.len ≠ Config.bufCap → (s.buf ≠ [] ∨ isData i = false) → t.assembled = s.buf ++ [i.byte]) ∧
    (s.len = Config.bufCap ∨ s.buf = [] ∧ s.rs = none → t.assembled = if isData i then [] else [i.byte]))
end

