-- ==== Sys2Proof/Laws/Classifier.lean ====
section
/-! SUPPORT. What the classifier and the byte classes say, by ranges of the first byte. -/

namespace Sys2Proof.Machine

theorem isStatus_iff (b : Byte) : isStatus b = true ↔ 0x80#8 ≤ b := by simp [isStatus]

theorem isOneByte_iff (b : Byte) : isOneByte b = true ↔ 0xF4#8 ≤ b := by simp [isOneByte]

theorem setsStatus_iff (b : Byte) : setsStatus b = true ↔ 0x80#8 ≤ b ∧ b ≤ 0xF3#8 := by revert b; decide

theorem typeNibble_three_iff (op : Byte) :
    typeNibble op ∈ ([0x80#8, 0x90#8, 0xA0#8, 0xB0#8, 0xE0#8] : List Byte) ↔
      0x80#8 ≤ op ∧ op < 0xC0#8 ∨ 0xE0#8 ≤ op ∧ op < 0xF0#8 := by
  revert op; decide

theorem typeNibble_two_iff (op : Byte) :
    typeNibble op ∈ ([0xC0#8, 0xD0#8] : List Byte) ↔ 0xC0#8 ≤ op ∧ op < 0xE0#8 := by
  revert op; decide

/-- The classifier by ranges of the first byte, without the mask. -/
theorem classify_cons (op : Byte) (xs : List Byte) :
    classify (op :: xs) =
      if op < 0x80#8 then .unknown
      else if op < 0xC0#8 then .len 3
      else if op < 0xE0#8 then .len 2
      else if op < 0xF0#8 then .len 3
      else if op = 0xF0#8 then (if xs.getLastD op = 0xF7#8 then .len (xs.length + 1) else .unknown)
      else if op = 0xF2#8 then .len 3
      else if op < 0xF4#8 then .len 2
      else .len 1 := by
  simp only [classify, typeNibble_three_iff, typeNibble_two_iff]
  split_ifs <;> first | rfl | (exfalso; bv_omega)

end Sys2Proof.Machine
end

