-- ==== Sys2Proof/Laws/State.lean ====
section
/-! SUPPORT. What each named operation does to each field of State: one lemma per field and operation. -/

namespace Sys2Proof.Machine

variable (s : State)

@[simp] theorem State.setFlag_overflow_buf : (s.setFlag .overflow).buf = s.buf := rfl
@[simp] theorem State.setFlag_overflow_rs : (s.setFlag .overflow).rs = s.rs := rfl
@[simp] theorem State.setFlag_overflow_ovf : (s.setFlag .overflow).ovf = true := rfl
@[simp] theorem State.setFlag_overflow_orphan : (s.setFlag .overflow).orphan = s.orphan := rfl
@[simp] theorem State.setFlag_overflow_msg : (s.setFlag .overflow).msg = s.msg := rfl
@[simp] theorem State.setFlag_overflow_emitted : (s.setFlag .overflow).emitted = s.emitted := rfl
@[simp] theorem State.setFlag_overflow_input : (s.setFlag .overflow).input = s.input := rfl

@[simp] theorem State.setFlag_orphan_buf : (s.setFlag .orphan).buf = s.buf := rfl
@[simp] theorem State.setFlag_orphan_rs : (s.setFlag .orphan).rs = s.rs := rfl
@[simp] theorem State.setFlag_orphan_ovf : (s.setFlag .orphan).ovf = s.ovf := rfl
@[simp] theorem State.setFlag_orphan_orphan : (s.setFlag .orphan).orphan = true := rfl
@[simp] theorem State.setFlag_orphan_msg : (s.setFlag .orphan).msg = s.msg := rfl
@[simp] theorem State.setFlag_orphan_emitted : (s.setFlag .orphan).emitted = s.emitted := rfl
@[simp] theorem State.setFlag_orphan_input : (s.setFlag .orphan).input = s.input := rfl

@[simp] theorem State.clearFlags_buf : s.clearFlags.buf = s.buf := rfl
@[simp] theorem State.clearFlags_rs : s.clearFlags.rs = s.rs := rfl
@[simp] theorem State.clearFlags_ovf : s.clearFlags.ovf = false := rfl
@[simp] theorem State.clearFlags_orphan : s.clearFlags.orphan = false := rfl
@[simp] theorem State.clearFlags_msg : s.clearFlags.msg = s.msg := rfl
@[simp] theorem State.clearFlags_emitted : s.clearFlags.emitted = s.emitted := rfl
@[simp] theorem State.clearFlags_input : s.clearFlags.input = s.input := rfl

@[simp] theorem State.noMessage_buf : s.noMessage.buf = s.buf := rfl
@[simp] theorem State.noMessage_rs : s.noMessage.rs = s.rs := rfl
@[simp] theorem State.noMessage_ovf : s.noMessage.ovf = s.ovf := rfl
@[simp] theorem State.noMessage_orphan : s.noMessage.orphan = s.orphan := rfl
@[simp] theorem State.noMessage_msg : s.noMessage.msg = none := rfl
@[simp] theorem State.noMessage_emitted : s.noMessage.emitted = s.emitted := rfl
@[simp] theorem State.noMessage_input : s.noMessage.input = s.input := rfl

@[simp] theorem State.append_buf (b : Byte) : (s.append b).buf = s.buf ++ [b] := rfl
@[simp] theorem State.append_rs (b : Byte) : (s.append b).rs = s.rs := rfl
@[simp] theorem State.append_ovf (b : Byte) : (s.append b).ovf = s.ovf := rfl
@[simp] theorem State.append_orphan (b : Byte) : (s.append b).orphan = s.orphan := rfl
@[simp] theorem State.append_msg (b : Byte) : (s.append b).msg = s.msg := rfl
@[simp] theorem State.append_emitted (b : Byte) : (s.append b).emitted = s.emitted := rfl
@[simp] theorem State.append_input (b : Byte) : (s.append b).input = s.input := rfl

@[simp] theorem State.recordStatus_buf (b : Byte) : (s.recordStatus b).buf = s.buf := rfl
@[simp] theorem State.recordStatus_rs (b : Byte) : (s.recordStatus b).rs = some b := rfl
@[simp] theorem State.recordStatus_ovf (b : Byte) : (s.recordStatus b).ovf = s.ovf := rfl
@[simp] theorem State.recordStatus_orphan (b : Byte) : (s.recordStatus b).orphan = s.orphan := rfl
@[simp] theorem State.recordStatus_msg (b : Byte) : (s.recordStatus b).msg = s.msg := rfl
@[simp] theorem State.recordStatus_emitted (b : Byte) : (s.recordStatus b).emitted = s.emitted := rfl
@[simp] theorem State.recordStatus_input (b : Byte) : (s.recordStatus b).input = s.input := rfl

@[simp] theorem State.synthesise_buf (r b : Byte) : (s.synthesise r b).buf = [r, b] := rfl
@[simp] theorem State.synthesise_rs (r b : Byte) : (s.synthesise r b).rs = s.rs := rfl
@[simp] theorem State.synthesise_ovf (r b : Byte) : (s.synthesise r b).ovf = s.ovf := rfl
@[simp] theorem State.synthesise_orphan (r b : Byte) : (s.synthesise r b).orphan = s.orphan := rfl
@[simp] theorem State.synthesise_msg (r b : Byte) : (s.synthesise r b).msg = s.msg := rfl
@[simp] theorem State.synthesise_emitted (r b : Byte) : (s.synthesise r b).emitted = s.emitted := rfl
@[simp] theorem State.synthesise_input (r b : Byte) : (s.synthesise r b).input = s.input := rfl

@[simp] theorem State.raise_overflow_buf : (s.raise .overflow).buf = [] := rfl
@[simp] theorem State.raise_overflow_rs : (s.raise .overflow).rs = none := rfl
@[simp] theorem State.raise_overflow_ovf : (s.raise .overflow).ovf = true := rfl
@[simp] theorem State.raise_overflow_orphan : (s.raise .overflow).orphan = s.orphan := rfl
@[simp] theorem State.raise_overflow_msg : (s.raise .overflow).msg = s.msg := rfl
@[simp] theorem State.raise_overflow_emitted : (s.raise .overflow).emitted = s.emitted := rfl
@[simp] theorem State.raise_overflow_input : (s.raise .overflow).input = s.input := rfl

@[simp] theorem State.raise_orphan_buf : (s.raise .orphan).buf = [] := rfl
@[simp] theorem State.raise_orphan_rs : (s.raise .orphan).rs = s.rs := rfl
@[simp] theorem State.raise_orphan_ovf : (s.raise .orphan).ovf = s.ovf := rfl
@[simp] theorem State.raise_orphan_orphan : (s.raise .orphan).orphan = true := rfl
@[simp] theorem State.raise_orphan_msg : (s.raise .orphan).msg = s.msg := rfl
@[simp] theorem State.raise_orphan_emitted : (s.raise .orphan).emitted = s.emitted := rfl
@[simp] theorem State.raise_orphan_input : (s.raise .orphan).input = s.input := rfl

@[simp] theorem State.emit_buf : s.emit.buf = [] := rfl
@[simp] theorem State.emit_rs : s.emit.rs = s.rs := rfl
@[simp] theorem State.emit_ovf : s.emit.ovf = s.ovf := rfl
@[simp] theorem State.emit_orphan : s.emit.orphan = s.orphan := rfl
@[simp] theorem State.emit_msg : s.emit.msg = some s.buf := rfl
@[simp] theorem State.emit_emitted : s.emit.emitted = s.emitted ++ [s.buf] := rfl
@[simp] theorem State.emit_input : s.emit.input = s.input := rfl

@[simp] theorem State.resetStep_buf : s.resetStep.buf = [] := rfl
@[simp] theorem State.resetStep_rs : s.resetStep.rs = none := rfl
@[simp] theorem State.resetStep_ovf : s.resetStep.ovf = false := rfl
@[simp] theorem State.resetStep_orphan : s.resetStep.orphan = false := rfl
@[simp] theorem State.resetStep_msg : s.resetStep.msg = none := rfl
@[simp] theorem State.resetStep_emitted : s.resetStep.emitted = s.emitted := rfl
@[simp] theorem State.resetStep_input : s.resetStep.input = s.input := rfl

@[simp] theorem State.idleStep_buf : s.idleStep.buf = s.buf := rfl
@[simp] theorem State.idleStep_rs : s.idleStep.rs = s.rs := rfl
@[simp] theorem State.idleStep_ovf : s.idleStep.ovf = s.ovf := rfl
@[simp] theorem State.idleStep_orphan : s.idleStep.orphan = s.orphan := rfl
@[simp] theorem State.idleStep_msg : s.idleStep.msg = none := rfl
@[simp] theorem State.idleStep_emitted : s.idleStep.emitted = s.emitted := rfl
@[simp] theorem State.idleStep_input : s.idleStep.input = s.input := rfl

@[simp] theorem State.takeInput_buf : s.takeInput.buf = s.buf := rfl
@[simp] theorem State.takeInput_rs : s.takeInput.rs = s.rs := rfl
@[simp] theorem State.takeInput_ovf : s.takeInput.ovf = s.ovf := rfl
@[simp] theorem State.takeInput_orphan : s.takeInput.orphan = s.orphan := rfl
@[simp] theorem State.takeInput_msg : s.takeInput.msg = s.msg := rfl
@[simp] theorem State.takeInput_emitted : s.takeInput.emitted = s.emitted := rfl
@[simp] theorem State.takeInput_input : s.takeInput.input = s.input.tail := rfl

@[simp] theorem State.present_buf (b : Byte) : (s.present b).buf = s.buf := rfl
@[simp] theorem State.present_rs (b : Byte) : (s.present b).rs = s.rs := rfl
@[simp] theorem State.present_ovf (b : Byte) : (s.present b).ovf = s.ovf := rfl
@[simp] theorem State.present_orphan (b : Byte) : (s.present b).orphan = s.orphan := rfl
@[simp] theorem State.present_msg (b : Byte) : (s.present b).msg = s.msg := rfl
@[simp] theorem State.present_emitted (b : Byte) : (s.present b).emitted = s.emitted := rfl
@[simp] theorem State.present_input (b : Byte) : (s.present b).input = byteIn b :: s.input := rfl

@[simp] theorem State.len_eq : s.len = s.buf.length := rfl

end Sys2Proof.Machine
end

