-- ==== Sys2Proof/Laws/Feed.lean ====
section
/-! SUPPORT. Everything `complete`, `feedAt` and `exec` can do, said once. -/

namespace Sys2Proof.Machine

variable {cap : Nat} {b : Byte} {s : State}

theorem State.complete_of_completes (h : completes s.buf = true) : s.complete = s.emit := by
  simp [State.complete, h]

theorem State.complete_of_not (h : completes s.buf = false) : s.complete = s := by
  simp [State.complete, h]

theorem State.checkCapacity_of_ne (h : s.buf.length ≠ cap) : s.checkCapacity cap = s.noMessage := by
  simp [State.checkCapacity, h]

theorem State.checkCapacity_of_eq (h : s.buf.length = cap) :
    s.checkCapacity cap = { s with buf := [], rs := none, ovf := true, msg := none } := by
  simp [State.checkCapacity, h, State.raise, State.setFlag, State.noMessage]

/-- The two ways classification ends (rules R138, R139). -/
theorem State.complete_cases (s : State) :
    s.complete = s ∧ completes s.buf = false ∨ s.complete = s.emit ∧ completes s.buf = true := by
  cases h : completes s.buf
  · exact .inl ⟨State.complete_of_not h, rfl⟩
  · exact .inr ⟨State.complete_of_completes h, rfl⟩

@[simp] theorem State.complete_rs (s : State) : s.complete.rs = s.rs := by unfold State.complete; split <;> rfl

@[simp] theorem State.complete_ovf (s : State) : s.complete.ovf = s.ovf := by unfold State.complete; split <;> rfl

@[simp] theorem State.complete_orphan (s : State) : s.complete.orphan = s.orphan := by
  unfold State.complete; split <;> rfl

/-- A one-byte buffer completes exactly when its byte is `0xF4` or more. -/
theorem completes_singleton (b : Byte) : completes [b] = isOneByte b := by
  revert b; decide

/-- Accepting a byte as the first of a message, `0x80` to `0xF3`. -/
theorem State.accept_status (h : s.buf = []) (hb : setsStatus b = true) :
    s.accept b = { s with buf := [b], rs := some b } := by
  simp only [setsStatus, Bool.and_eq_true, Bool.not_eq_true'] at hb
  simp [State.accept, State.append, State.recordStatus, State.complete, completes_singleton, State.len, h, hb]

/-- Accepting a byte as the first of a message, `0xF4` to `0xFF`. -/
theorem State.accept_oneByte (h : s.buf = []) (hb : isOneByte b = true) :
    s.accept b = { s with msg := some [b], emitted := s.emitted ++ [[b]] } := by
  have hs : isStatus b = true := by revert hb; revert b; decide
  obtain ⟨buf, rs, ovf, orphan, msg, emitted, input⟩ := s
  obtain rfl : buf = [] := h
  simp [State.accept, State.append, State.complete, State.emit, completes_singleton, State.len, hb, hs]

/-- Accepting a first data byte while there is a running status. -/
theorem State.accept_continue {r : Byte} (h : s.buf = []) (hb : isStatus b = false) (hr : s.rs = some r) :
    s.accept b = ({ s with buf := [r, b] } : State).complete := by
  simp [State.accept, State.append, State.synthesise, State.len, h, hb, hr]

/-- Accepting a first data byte while there is no running status. -/
theorem State.accept_orphan (h : s.buf = []) (hb : isStatus b = false) (hr : s.rs = none) :
    s.accept b = { s with orphan := true } := by
  obtain ⟨buf, rs, ovf, orphan, msg, emitted, input⟩ := s
  obtain rfl : buf = [] := h
  obtain rfl : rs = none := hr
  simp [State.accept, State.append, State.raise, State.setFlag, State.len, hb]

/-- Accepting a later byte, whatever its class. -/
theorem State.accept_later (h : s.buf ≠ []) : s.accept b = ({ s with buf := s.buf ++ [b] } : State).complete := by
  simp [State.accept, State.append, State.len, h]

/-- The four ways a byte is accepted. -/
theorem State.accept_cases (b : Byte) (s : State) :
    (s.buf = [] ∧ setsStatus b = true) ∨ (s.buf = [] ∧ isOneByte b = true) ∨
    (s.buf = [] ∧ isStatus b = false ∧ ∃ r, s.rs = some r) ∨ (s.buf = [] ∧ isStatus b = false ∧ s.rs = none) ∨
    s.buf ≠ [] := by
  by_cases h : s.buf = []
  · cases hs : isStatus b <;> cases ho : isOneByte b <;> cases hr : s.rs <;> simp [setsStatus, h, hs, ho]
  · simp [h]

theorem isStatus_of_setsStatus (h : setsStatus b = true) : isStatus b = true := by
  simp only [setsStatus, Bool.and_eq_true] at h; exact h.1

theorem isStatus_of_isOneByte (h : isOneByte b = true) : isStatus b = true := by revert h; revert b; decide

/-- The running status after a byte is accepted: only a first status byte below `0xF4` writes it (rule R27). -/
theorem State.accept_rs (b : Byte) (s : State) :
    (s.accept b).rs = if s.buf = [] ∧ setsStatus b = true then some b else s.rs := by
  obtain ⟨h, hb⟩ | ⟨h, hb⟩ | ⟨h, hb, r, hr⟩ | ⟨h, hb, hr⟩ | h := State.accept_cases b s
  · simp [State.accept_status h hb, h, hb]
  · simp [State.accept_oneByte h hb, setsStatus, hb]
  · simp [State.accept_continue h hb hr, setsStatus, hb]
  · simp [State.accept_orphan h hb hr, setsStatus, hb]
  · simp [State.accept_later h, h]

@[simp] theorem State.accept_ovf (b : Byte) (s : State) : (s.accept b).ovf = s.ovf := by
  obtain ⟨h, hb⟩ | ⟨h, hb⟩ | ⟨h, hb, r, hr⟩ | ⟨h, hb, hr⟩ | h := State.accept_cases b s
  · simp [State.accept_status h hb]
  · simp [State.accept_oneByte h hb]
  · simp [State.accept_continue h hb hr]
  · simp [State.accept_orphan h hb hr]
  · simp [State.accept_later h]

/-- The orphan flag after a byte is accepted: set by a first data byte with no running status (rule R171). -/
theorem State.accept_orphanFlag (b : Byte) (s : State) :
    (s.accept b).orphan = (s.orphan || (decide (s.buf = []) && !isStatus b && s.rs.isNone)) := by
  obtain ⟨h, hb⟩ | ⟨h, hb⟩ | ⟨h, hb, r, hr⟩ | ⟨h, hb, hr⟩ | h := State.accept_cases b s
  · simp [State.accept_status h hb, isStatus_of_setsStatus hb]
  · simp [State.accept_oneByte h hb, isStatus_of_isOneByte hb]
  · simp [State.accept_continue h hb hr, hr]
  · simp [State.accept_orphan h hb hr, h, hb, hr]
  · simp [State.accept_later h, h]

/-- Accepting a byte neither reads nor writes the inputs still to come. -/
theorem State.accept_withInput (b : Byte) (s : State) (ps : List InPort) :
    State.accept b { s with input := ps } = { s.accept b with input := ps } := by
  have hm : ∀ t : State, State.complete { t with input := ps } = { t.complete with input := ps } := fun t => by
    unfold State.complete; split <;> rfl
  obtain ⟨h, hb⟩ | ⟨h, hb⟩ | ⟨h, hb, r, hr⟩ | ⟨h, hb, hr⟩ | h := State.accept_cases b s
  · rw [State.accept_status (s := { s with input := ps }) h hb, State.accept_status h hb]
  · rw [State.accept_oneByte (s := { s with input := ps }) h hb, State.accept_oneByte h hb]
  · rw [State.accept_continue (s := { s with input := ps }) h hb hr, State.accept_continue h hb hr]
    exact hm { s with buf := [r, b] }
  · rw [State.accept_orphan (s := { s with input := ps }) h hb hr, State.accept_orphan h hb hr]
  · rw [State.accept_later (s := { s with input := ps }) h, State.accept_later h]
    exact hm { s with buf := s.buf ++ [b] }

/-- On a buffer that is not full, `feed` is the document's `feed` (rule R6). -/
theorem feedAt_of_room (h : s.buf.length ≠ cap) : feedAt cap b s = feedUnbounded b s := by
  simp [feedAt, feedUnbounded, State.checkCapacity_of_ne h]

/-- On a full buffer, `feed` drops the buffer and the running status and takes the byte as a first byte (rule R140). -/
theorem feedAt_of_full (h : s.buf.length = cap) :
    feedAt cap b s = ({ s with buf := [], rs := none, ovf := true, msg := none } : State).accept b := by
  simp [feedAt, State.checkCapacity_of_eq h]

/-- `feed` as one acceptance, on the state the capacity check leaves. -/
theorem feedAt_eq (cap : Nat) (b : Byte) (s : State) :
    feedAt cap b s = (if s.buf.length = cap then ({ s with buf := [], rs := none, ovf := true, msg := none } : State)
      else { s with msg := none }).accept b := by
  split_ifs with h
  · exact feedAt_of_full h
  · exact feedAt_of_room h

theorem feedAt_status (h : s.buf = []) (hc : cap ≠ 0) (hb : setsStatus b = true) :
    feedAt cap b s = { s with buf := [b], rs := some b, msg := none } := by
  rw [feedAt_of_room (by simpa [h] using hc.symm), feedUnbounded, State.accept_status (s := s.noMessage) h hb]; rfl

theorem feedAt_oneByte (h : s.buf = []) (hc : cap ≠ 0) (hb : isOneByte b = true) :
    feedAt cap b s = { s with msg := some [b], emitted := s.emitted ++ [[b]] } := by
  rw [feedAt_of_room (by simpa [h] using hc.symm), feedUnbounded, State.accept_oneByte (s := s.noMessage) h hb]; rfl

theorem feedAt_continue {r : Byte} (h : s.buf = []) (hc : cap ≠ 0) (hb : isStatus b = false) (hr : s.rs = some r) :
    feedAt cap b s = ({ s with buf := [r, b], msg := none } : State).complete := by
  rw [feedAt_of_room (by simpa [h] using hc.symm), feedUnbounded, State.accept_continue (s := s.noMessage) h hb hr]; rfl

theorem feedAt_orphan (h : s.buf = []) (hc : cap ≠ 0) (hb : isStatus b = false) (hr : s.rs = none) :
    feedAt cap b s = { s with orphan := true, msg := none } := by
  rw [feedAt_of_room (by simpa [h] using hc.symm), feedUnbounded, State.accept_orphan (s := s.noMessage) h hb hr]; rfl

theorem feedAt_later (h : s.buf ≠ []) (hc : s.buf.length ≠ cap) :
    feedAt cap b s = ({ s with buf := s.buf ++ [b], msg := none } : State).complete := by
  rw [feedAt_of_room hc, feedUnbounded, State.accept_later (s := s.noMessage) h]; rfl

theorem Config.bufCap_ne_zero : Config.bufCap ≠ 0 := by simp [Config.bufCap]

theorem Config.three_le_bufCap : 3 ≤ Config.bufCap := by simp [Config.bufCap]

/-- Every instruction is `feed` of its byte (rules R11, R130), so no instruction stops. -/
theorem exec_eq_feed (i : Instr) (s : State) : exec i s = .next (feed i.byte s) := by
  cases i <;> rfl

@[simp] theorem feedAll_nil (s : State) : feedAll cap [] s = s := rfl

@[simp] theorem feedAll_cons (bs : List Byte) (s : State) :
    feedAll cap (b :: bs) s = feedAll cap bs (feedAt cap b s) := rfl

theorem feedAll_append (bs cs : List Byte) (s : State) :
    feedAll cap (bs ++ cs) s = feedAll cap cs (feedAll cap bs s) := by simp [feedAll]

end Sys2Proof.Machine
end

