-- ==== Sys2Proof/Laws/Formats.lean ====
section
/-! SUPPORT. When a buffer is complete, by the format its first byte selects (rules R72, R80, R138). -/

namespace Sys2Proof.Machine

theorem completes_iff (s : List Byte) : completes s = true ↔ ∃ n, classify s = .len n ∧ n ≤ s.length := by
  unfold completes; split <;> simp_all

theorem completes_cons (op : Byte) (xs : List Byte) :
    completes (op :: xs) =
      if op < 0x80#8 then false
      else if op < 0xC0#8 then decide (2 ≤ xs.length)
      else if op < 0xE0#8 then decide (1 ≤ xs.length)
      else if op < 0xF0#8 then decide (2 ≤ xs.length)
      else if op = 0xF0#8 then decide (xs.getLastD op = 0xF7#8)
      else if op = 0xF2#8 then decide (2 ≤ xs.length)
      else if op < 0xF4#8 then decide (1 ≤ xs.length)
      else true := by
  unfold completes
  rw [classify_cons]
  generalize xs.getLastD op = l
  by_cases h : l = 0xF7#8 <;> simp only [h, if_true, if_false] <;> split_ifs <;> simp

theorem completes_three {op : Byte} (h : takesThree op) (xs : List Byte) :
    completes (op :: xs) = decide (2 ≤ xs.length) := by
  unfold takesThree at h
  rw [completes_cons]
  split_ifs <;> first | rfl | (exfalso; bv_omega)

theorem completes_two {op : Byte} (h : takesTwo op) (xs : List Byte) :
    completes (op :: xs) = decide (1 ≤ xs.length) := by
  unfold takesTwo at h
  rw [completes_cons]
  split_ifs <;> first | rfl | (exfalso; bv_omega)

theorem completes_sysex (xs : List Byte) : completes (0xF0#8 :: xs) = decide (xs.getLastD 0xF0#8 = 0xF7#8) := by
  rw [completes_cons]; rfl

/-- A running status selects one of the three formats (rules R28, R135). -/
theorem format_of_status {op : Byte} (lo : 0x80#8 ≤ op) (hi : op ≤ 0xF3#8) :
    takesThree op ∨ takesTwo op ∨ op = 0xF0#8 := by
  unfold takesThree takesTwo; bv_omega

end Sys2Proof.Machine
end

