-- ==== Sys2Proof/Laws/PerInstr.lean ====
section
/-! SUPPORT. Facts about every instruction as text, one lemma per constructor. -/

namespace Sys2Proof.Laws.ByteInRow

/-- The byte of an instruction matches the row of the opcode table that the instruction stands for (rule R76). -/
def Statement (i : Instr) : Prop := i.byte &&& i.row.mask = i.row.pat

theorem data (d : BitVec 7) : Statement (.data d) := by revert d; unfold Statement; decide
theorem ch8 (c : BitVec 4) : Statement (.ch8 c) := by revert c; unfold Statement; decide
theorem ch9 (c : BitVec 4) : Statement (.ch9 c) := by revert c; unfold Statement; decide
theorem chA (c : BitVec 4) : Statement (.chA c) := by revert c; unfold Statement; decide
theorem chB (c : BitVec 4) : Statement (.chB c) := by revert c; unfold Statement; decide
theorem chC (c : BitVec 4) : Statement (.chC c) := by revert c; unfold Statement; decide
theorem chD (c : BitVec 4) : Statement (.chD c) := by revert c; unfold Statement; decide
theorem chE (c : BitVec 4) : Statement (.chE c) := by revert c; unfold Statement; decide
theorem sysex : Statement .sysex := by unfold Statement; decide
theorem sysF1 : Statement .sysF1 := by unfold Statement; decide
theorem sysF2 : Statement .sysF2 := by unfold Statement; decide
theorem sysF3 : Statement .sysF3 := by unfold Statement; decide
theorem sysF4 : Statement .sysF4 := by unfold Statement; decide
theorem sysF5 : Statement .sysF5 := by unfold Statement; decide
theorem sysF6 : Statement .sysF6 := by unfold Statement; decide
theorem sysF7 : Statement .sysF7 := by unfold Statement; decide
theorem sysF8 : Statement .sysF8 := by unfold Statement; decide
theorem sysF9 : Statement .sysF9 := by unfold Statement; decide
theorem sysFA : Statement .sysFA := by unfold Statement; decide
theorem sysFB : Statement .sysFB := by unfold Statement; decide
theorem sysFC : Statement .sysFC := by unfold Statement; decide
theorem sysFD : Statement .sysFD := by unfold Statement; decide
theorem sysFE : Statement .sysFE := by unfold Statement; decide
theorem sysFF : Statement .sysFF := by unfold Statement; decide

end Sys2Proof.Laws.ByteInRow
end

