-- ==== Sys2Proof/Laws/Step.lean ====
section
/-! SUPPORT. What a step does, and a run over presented bytes as `feed` of them one by one. -/

namespace Sys2Proof.Machine

theorem byte_decodeByte (b : Byte) : (decodeByte b).byte = b := by revert b; decide

/-- Classifying decides where the message stands, not what it is: in the buffer, or put out. -/
theorem State.assembled_complete {s : State} (h : s.msg = none) : s.complete.assembled = s.buf := by
  obtain ⟨hc, -⟩ | ⟨hc, -⟩ := State.complete_cases s <;> simp [hc, State.assembled, State.emit, h]

/-- The three kinds of step (rule R52), and that there is no other outcome. -/
theorem step_cases (s : State) :
    (s.input = [] ∧ step s = .next s.idleStep) ∨
    (∃ p rest, s.input = p :: rest ∧ p.rst = true ∧ step s = .next s.takeInput.resetStep) ∨
    (∃ p rest, s.input = p :: rest ∧ p.rst = false ∧ p.inValid = false ∧ step s = .next s.takeInput.idleStep) ∨
    (∃ p rest, s.input = p :: rest ∧ p.rst = false ∧ p.inValid = true ∧
      step s = .next (feed p.inData s.takeInput)) := by
  unfold step
  rcases h : s.input with _ | ⟨p, rest⟩
  · simp
  · cases hr : p.rst <;> cases hv : p.inValid <;> simp [hr, hv, exec_eq_feed, byte_decodeByte]

/-- `feed` neither reads nor writes the inputs still to come. -/
theorem feedAt_withInput (cap : Nat) (b : Byte) (s : State) (ps : List InPort) :
    feedAt cap b { s with input := ps } = { feedAt cap b s with input := ps } := by
  by_cases h : s.buf.length = cap
  · rw [feedAt_of_full (s := { s with input := ps }) h, feedAt_of_full h]
    exact State.accept_withInput b { s with buf := [], rs := none, ovf := true, msg := none } ps
  · rw [feedAt_of_room (s := { s with input := ps }) h, feedAt_of_room h]
    exact State.accept_withInput b s.noMessage ps

theorem feedAt_input (cap : Nat) (b : Byte) (s : State) : (feedAt cap b s).input = s.input := by
  rw [feedAt_withInput]

/-- Running one step for each byte presented is feeding the bytes (rules R52, R53, R141). -/
theorem run_presentAll (bs : List Byte) (s : State) :
    Host.Core.run Sys2Proof.core bs.length (s.presentAll bs) = .next (feedAll Config.bufCap bs s) := by
  induction bs generalizing s with
  | nil => rfl
  | cons b bs ih =>
    have hstep : step (s.presentAll (b :: bs)) = .next ((feed b s).presentAll bs) := by
      change exec (decodeByte b) { s with input := bs.map byteIn ++ s.input } = _
      rw [exec_eq_feed, byte_decodeByte, feed, feedAt_withInput]
      simp [State.presentAll, feed, feedAt_input]
    have : Host.Core.run Sys2Proof.core (bs.length + 1) (s.presentAll (b :: bs)) =
        Host.Core.run Sys2Proof.core bs.length ((feed b s).presentAll bs) := by
      simp only [Host.Core.run]
      rw [show core.step (s.presentAll (b :: bs)) = _ from hstep]
    rw [List.length_cons, this, ih]; rfl

end Sys2Proof.Machine
end

