-- ==== Sys2Proof/Tests/Slice0.lean ====
section
/-! SUPPORT. The model's own tests. Expected results come from the spec: the encoding column of rule R75, the worked
examples S<n> and the vectors K<n>, V<n>, P<n> of spec/95_test_vectors.md. The witness theorems show, for each statement
with hypotheses, a state and operands that meet them. -/

namespace Sys2Proof.Tests

open Sys2Proof.Machine

/-- A state after reset but for its buffer and running status. -/
def st (buf : List Byte) (rs : Option Byte) : State := { State.reset with buf := buf, rs := rs }

/-- `st` with a message just emitted. -/
def sent (buf : List Byte) (rs : Option Byte) (m : Message) : State :=
  { st buf rs with msg := some m, emitted := [m] }

/-- A full buffer, whatever the capacity: `0xF0` and data bytes. -/
def full : State := st (0xF0#8 :: List.replicate (Config.bufExtra + 2) 0x01#8) (some 0xF0#8)

/-! ## Well-formedness: an ill-formed term for each check -/

/-- No term of `Instr` is ill formed: the check accepts at both ends of each operand field. -/
theorem test_wf_instr : ∀ i ∈ [Instr.data 0, .data 127, .ch8 0, .chE 15, .sysex, .sysFF], i.wellFormed = true := by decide
theorem test_wf_empty : messageWf 4 [] = false := by decide
theorem test_wf_data_first : messageWf 4 [0x7F#8, 0x00#8, 0x00#8] = false := by decide
theorem test_wf_three_short : messageWf 4 [0x90#8, 0x40#8] = false := by decide
theorem test_wf_two_long : messageWf 4 [0xC5#8, 0x0A#8, 0x0B#8] = false := by decide
theorem test_wf_che_short : messageWf 4 [0xEF#8, 0x7F#8] = false := by decide
theorem test_wf_sysex_open : messageWf 4 [0xF0#8, 0x01#8] = false := by decide
theorem test_wf_sysex_inner_end : messageWf 4 [0xF0#8, 0xF7#8, 0xF7#8] = false := by decide
theorem test_wf_f2_short : messageWf 4 [0xF2#8, 0x01#8] = false := by decide
theorem test_wf_f3_long : messageWf 4 [0xF3#8, 0x01#8, 0x02#8] = false := by decide
theorem test_wf_one_byte_long : messageWf 4 [0xF8#8, 0x41#8] = false := by decide
theorem test_wf_over_capacity : messageWf 3 [0xF0#8, 0x01#8, 0x02#8, 0xF7#8] = false := by decide
theorem test_wf_accepts : messageWf 4 [0xF0#8, 0x01#8, 0x02#8, 0xF7#8] = true ∧ messageWf 3 [0x90#8, 0xFF#8, 0x80#8] = true ∧
    messageWf 3 [0xF3#8, 0x05#8] = true ∧ messageWf 3 [0xF4#8] = true := by decide

/-! ## Decoding: one word per constructor, from the encoding column of rule R75 -/

theorem test_decode_data : decodeByte 0b01000000#8 = .data 0b1000000#7 := by decide
theorem test_decode_ch8 : decodeByte 0b10000011#8 = .ch8 0b0011#4 := by decide
theorem test_decode_ch9 : decodeByte 0b10011111#8 = .ch9 0b1111#4 := by decide
theorem test_decode_chA : decodeByte 0b10100010#8 = .chA 0b0010#4 := by decide
theorem test_decode_chB : decodeByte 0b10110000#8 = .chB 0b0000#4 := by decide
theorem test_decode_chC : decodeByte 0b11000101#8 = .chC 0b0101#4 := by decide
theorem test_decode_chD : decodeByte 0b11010011#8 = .chD 0b0011#4 := by decide
theorem test_decode_chE : decodeByte 0b11100001#8 = .chE 0b0001#4 := by decide
theorem test_decode_sysex : decodeByte 0b11110000#8 = .sysex := by decide
theorem test_decode_sysF1 : decodeByte 0b11110001#8 = .sysF1 := by decide
theorem test_decode_sysF2 : decodeByte 0b11110010#8 = .sysF2 := by decide
theorem test_decode_sysF3 : decodeByte 0b11110011#8 = .sysF3 := by decide
theorem test_decode_sysF4 : decodeByte 0b11110100#8 = .sysF4 := by decide
theorem test_decode_sysF5 : decodeByte 0b11110101#8 = .sysF5 := by decide
theorem test_decode_sysF6 : decodeByte 0b11110110#8 = .sysF6 := by decide
theorem test_decode_sysF7 : decodeByte 0b11110111#8 = .sysF7 := by decide
theorem test_decode_sysF8 : decodeByte 0b11111000#8 = .sysF8 := by decide
theorem test_decode_sysF9 : decodeByte 0b11111001#8 = .sysF9 := by decide
theorem test_decode_sysFA : decodeByte 0b11111010#8 = .sysFA := by decide
theorem test_decode_sysFB : decodeByte 0b11111011#8 = .sysFB := by decide
theorem test_decode_sysFC : decodeByte 0b11111100#8 = .sysFC := by decide
theorem test_decode_sysFD : decodeByte 0b11111101#8 = .sysFD := by decide
theorem test_decode_sysFE : decodeByte 0b11111110#8 = .sysFE := by decide
theorem test_decode_sysFF : decodeByte 0b11111111#8 = .sysFF := by decide
theorem test_decode_no_byte : (match decode [] with | .error e => e == .noByte | .ok _ => false) = true := by decide
theorem test_table_word : decodeTableWord 8 0xC5 = some (.chC 5) ∧ decodeTableWord 8 0xF7 = some .sysF7 := by decide

/-! ## The classifier -/

/-- K1 to K3: empty, data bytes, and the boundary at `0x80`. -/
theorem test_classify_low : classify [] = .unknown ∧ classify [0x7F#8, 0xF7#8] = .unknown ∧
    classify [0x80#8] = .len 3 ∧ classify [0x80#8, 0x00#8, 0x00#8, 0x00#8] = .len 3 := by decide
/-- K4f, K5a, K5d, K6a, K6b: the boundaries between the channel rows. -/
theorem test_classify_channel : classify [0xBF#8] = .len 3 ∧ classify [0xC0#8] = .len 2 ∧ classify [0xDF#8] = .len 2 ∧
    classify [0xE0#8] = .len 3 ∧ classify [0xEF#8, 0x7F#8, 0x7F#8] = .len 3 := by decide
/-- K7a, K7b, K7e, K7f, K7g: only the last byte of a sysex buffer counts. -/
theorem test_classify_sysex : classify [0xF0#8] = .unknown ∧ classify [0xF0#8, 0xF7#8] = .len 2 ∧
    classify [0xF0#8, 0xF7#8, 0x00#8] = .unknown ∧ classify [0xF0#8, 0xF7#8, 0xF7#8] = .len 3 ∧
    classify [0xF0#8, 0x90#8, 0xF8#8, 0xF0#8] = .unknown := by decide
/-- K8a, K8c, K8e, K9a, K9f, K9m. -/
theorem test_classify_system : classify [0xF1#8] = .len 2 ∧ classify [0xF2#8] = .len 3 ∧ classify [0xF3#8] = .len 2 ∧
    classify [0xF4#8] = .len 1 ∧ classify [0xF8#8, 0x41#8] = .len 1 ∧ classify [0xFF#8] = .len 1 := by decide

/-! ## One instruction -/

/-- V2: an orphan after reset. -/
theorem test_data_orphan : exec (.data 0x40#7) (st [] none) = .next { st [] none with orphan := true } := rfl
/-- V4, step 3: the short form of a two-byte message completes at once. -/
theorem test_data_short_two : exec (.data 0x06#7) (st [] (some 0xC0#8)) = .next (sent [] (some 0xC0#8) [0xC0#8, 0x06#8]) := rfl
/-- V33: the short form of a three-byte message waits. -/
theorem test_data_short_three : exec (.data 0x41#7) (st [] (some 0x90#8)) = .next (st [0x90#8, 0x41#8] (some 0x90#8)) := rfl
/-- S4, step 3: the third byte completes. -/
theorem test_data_completes : exec (.data 0x7F#7) (st [0x90#8, 0x40#8] (some 0x90#8)) =
    .next (sent [] (some 0x90#8) [0x90#8, 0x40#8, 0x7F#8]) := rfl
/-- S5, step 4: a first status byte replaces the running status. -/
theorem test_ch8_first : exec (.ch8 0) (st [] (some 0x90#8)) = .next (st [0x80#8] (some 0x80#8)) := rfl
/-- P6, step 3: a status byte inside a message is an operand. -/
theorem test_ch8_operand : exec (.ch8 0) (st [0x90#8, 0x40#8] (some 0x90#8)) =
    .next (sent [] (some 0x90#8) [0x90#8, 0x40#8, 0x80#8]) := rfl
/-- V8, step 2. -/
theorem test_ch9_operand : exec (.ch9 0) (st [0x90#8] (some 0x90#8)) = .next (st [0x90#8, 0x90#8] (some 0x90#8)) := rfl
/-- P13, steps 9, 1, 4. -/
theorem test_chA_first : exec (.chA 2) (st [] (some 0xE1#8)) = .next (st [0xA2#8] (some 0xA2#8)) := rfl
theorem test_chD_first : exec (.chD 3) (st [] none) = .next (st [0xD3#8] (some 0xD3#8)) := rfl
theorem test_chE_first : exec (.chE 1) (st [] (some 0xD3#8)) = .next (st [0xE1#8] (some 0xE1#8)) := rfl
/-- P2, steps 5 and 8. -/
theorem test_chC_first : exec (.chC 5) (st [] (some 0xF0#8)) = .next (st [0xC5#8] (some 0xC5#8)) := rfl
theorem test_chB_first : exec (.chB 0) (st [] (some 0xC5#8)) = .next (st [0xB0#8] (some 0xB0#8)) := rfl
/-- V10, V11: sysex opens, and a second `0xF0` is swallowed. -/
theorem test_sysex_first : exec .sysex (st [] none) = .next (st [0xF0#8] (some 0xF0#8)) := rfl
theorem test_sysex_operand : exec .sysex (st [0xF0#8] (some 0xF0#8)) = .next (st [0xF0#8, 0xF0#8] (some 0xF0#8)) := rfl
/-- P8, steps 1, 4, 9. -/
theorem test_sysF1_first : exec .sysF1 (st [] none) = .next (st [0xF1#8] (some 0xF1#8)) := rfl
theorem test_sysF2_first : exec .sysF2 (st [] (some 0xF1#8)) = .next (st [0xF2#8] (some 0xF2#8)) := rfl
theorem test_sysF3_first : exec .sysF3 (st [] (some 0xF2#8)) = .next (st [0xF3#8] (some 0xF3#8)) := rfl
/-- V22: the values the MIDI standard leaves undefined are one-byte messages. -/
theorem test_sysF4_first : exec .sysF4 (st [] (some 0x90#8)) = .next (sent [] (some 0x90#8) [0xF4#8]) := rfl
theorem test_sysFD_first : exec .sysFD (st [] (some 0x90#8)) = .next (sent [] (some 0x90#8) [0xFD#8]) := rfl
/-- V6, V10, V9: the three roles of `0xF7`. -/
theorem test_sysF7_first : exec .sysF7 (st [] none) = .next (sent [] none [0xF7#8]) := rfl
theorem test_sysF7_ends_sysex : exec .sysF7 (st [0xF0#8] (some 0xF0#8)) = .next (sent [] (some 0xF0#8) [0xF0#8, 0xF7#8]) := rfl
theorem test_sysF7_operand : exec .sysF7 (st [0xF2#8] (some 0xF2#8)) = .next (st [0xF2#8, 0xF7#8] (some 0xF2#8)) := rfl
/-- P1, step 4, and P5, step 3. -/
theorem test_sysF8_first : exec .sysF8 (st [] (some 0x90#8)) = .next (sent [] (some 0x90#8) [0xF8#8]) := rfl
theorem test_sysF8_operand : exec .sysF8 (st [0x90#8, 0x40#8] (some 0x90#8)) =
    .next (sent [] (some 0x90#8) [0x90#8, 0x40#8, 0xF8#8]) := rfl

/-! ## Overflow, at capacities the spec's vectors state -/

/-- V15, step 4: a sysex message of exactly `BUF_CAP` bytes is emitted. -/
theorem test_fits : feedAt 4 0xF7#8 (st [0xF0#8, 0x01#8, 0x02#8] (some 0xF0#8)) =
    sent [] (some 0xF0#8) [0xF0#8, 0x01#8, 0x02#8, 0xF7#8] := by decide
/-- V16, step 5: one byte too long; the terminator is emitted alone. -/
theorem test_overflow_f7 : feedAt 4 0xF7#8 (st [0xF0#8, 0x01#8, 0x02#8, 0x03#8] (some 0xF0#8)) =
    { sent [] none [0xF7#8] with ovf := true } := by decide
/-- V18, step 4: the overflowing status byte opens a message. -/
theorem test_overflow_status : feedAt 3 0x90#8 (st [0xF0#8, 0x01#8, 0x02#8] (some 0xF0#8)) =
    { st [0x90#8] (some 0x90#8) with ovf := true } := by decide
/-- V19, step 5: overflow and orphan in one step, `FLAGS = 0b11`. -/
theorem test_overflow_orphan : let t := feedAt 4 0x04#8 (st [0xF0#8, 0x01#8, 0x02#8, 0x03#8] (some 0xF0#8))
    t = { st [] none with ovf := true, orphan := true } ∧ t.flags = 0b11#2 := by decide

/-! ## Steps -/

/-- V28: reset wins over a byte presented with it. -/
theorem test_reset_wins : step { st [0x90#8] (some 0x90#8) with orphan := true, input := [⟨true, true, 0x90#8⟩] } =
    .next State.reset := rfl
/-- V29: an idle step changes nothing. -/
theorem test_idle : step { st [0x90#8] (some 0x90#8) with input := [⟨false, false, 0x40#8⟩] } =
    .next (st [0x90#8] (some 0x90#8)) := rfl
/-- The first instruction after reset is the one presented (V31, row `80` to `F3`). -/
theorem test_fetch_word : step (State.reset.withFetchWord 8 0x90) = .next (st [0x90#8] (some 0x90#8)) := rfl

/-! ## Witnesses: the hypotheses of each statement can be met -/

theorem ready_inv (rs : Option Byte) (h : ∀ r, rs = some r → 0x80#8 ≤ r ∧ r ≤ 0xF3#8) : (st [] rs).Inv where
  lenLe := by simp [st]
  firstIsStatus := by simp [st]
  incomplete := by simp [st]
  firstIsRs := by simp [st]
  rsIsStatus := h
  shortUnlessSysex := by simp [st]
  noTerminator := by simp [st]

theorem note_inv : (st [0x90#8, 0x40#8] (some 0x90#8)).Inv where
  lenLe := by simp [st, Config.bufCap]
  firstIsStatus := by intro op xs h; cases h; decide
  incomplete := by intro n _ h; cases h; simp [st]
  firstIsRs := by intro op xs h; cases h; rfl
  rsIsStatus := by intro r h; cases h; decide
  shortUnlessSysex := by intro op xs h _; simp [st]
  noTerminator := by intro xs h; cases h

theorem full_len : full.len = Config.bufCap := by simp [full, st, State.reset, Config.bufCap]

theorem full_inv : full.Inv where
  lenLe := full_len.le
  firstIsStatus := by intro op xs h; cases h; decide
  incomplete := by
    intro n _ h
    have hn : classify full.buf = .unknown := by
      change classify (0xF0#8 :: List.replicate (Config.bufExtra + 2) 0x01#8) = _
      rw [classify_cons, List.replicate_succ', List.getLastD_concat]; rfl
    rw [hn] at h; cases h
  firstIsRs := by intro op xs h; cases h; rfl
  rsIsStatus := by intro r h; cases h; decide
  shortUnlessSysex := by intro op xs h hne; cases h; exact absurd rfl hne
  noTerminator := by intro xs h; cases h; intro hm; exact absurd (List.eq_of_mem_replicate hm) (by decide)

/-- ResetStepClearsTheBlock, ResetStepKeepsTheStreams, and the reset clauses of the statements over steps. -/
theorem witness_reset_step : ∃ (s : State) (p : InPort) (rest : List InPort) (t : State),
    s.input = p :: rest ∧ p = ⟨true, true, 0x90#8⟩ ∧ p.rst = true ∧ rest ≠ [] ∧ step s = .next t :=
  ⟨{ full with input := [⟨true, true, 0x90#8⟩, byteIn 0x40#8] }, _, _, _, rfl, rfl, rfl, by simp, rfl⟩

/-- IdleStepChangesNothing, both clauses, and the idle clauses of the statements over steps. -/
theorem witness_idle_step : (∃ (s t : State) (b : Byte) (rest : List InPort),
      s.input = ⟨false, false, b⟩ :: rest ∧ step s = .next t) ∧ (∃ s t : State, s.input = [] ∧ step s = .next t) :=
  ⟨⟨{ full with input := [⟨false, false, 0xFF#8⟩] }, _, _, _, rfl, rfl⟩, full, _, rfl, rfl⟩

/-- StepRunsTheDecodedInstruction, both clauses. -/
theorem witness_step_runs : (∃ (s : State) (b : Byte) (rest : List InPort) (i : Instr),
      s.input = ⟨false, true, b⟩ :: rest ∧ decode [b] = .ok (i, [])) ∧ decodeTableWord 8 0xFF = some .sysFF :=
  ⟨⟨{ full with input := [byteIn 0x7F#8] }, _, _, _, rfl, rfl⟩, rfl⟩

/-- DecodeAndEncodeAgree. -/
theorem witness_decode_encode : (Instr.ch8 15).wellFormed = true := rfl

/-- ClassifierPartitionsFirstBytes: the two ends of every row. -/
theorem witness_classifier_rows :
    (0x00#8 ≤ 0x7F#8 ∧ 0x7F#8 ≤ 0x7F#8) ∧ (0x80#8 ≤ 0x80#8 ∧ 0xBF#8 ≤ 0xBF#8) ∧ (0xC0#8 ≤ 0xC0#8 ∧ 0xDF#8 ≤ 0xDF#8) ∧
    (0xE0#8 ≤ 0xE0#8 ∧ 0xEF#8 ≤ 0xEF#8) ∧ (0xF4#8 ≤ 0xF4#8 ∧ 0xF4#8 ≤ 0xFF#8) ∧
    typeNibble 0xEF#8 ∈ [0xE0#8] := by decide

/-- ClassifierVerdictIsBounded, ClassifierIgnoresTheChannel, EveryRowHasItsVerdict. -/
theorem witness_classifier_bounds : (0xEF#8 ≠ 0xF0#8) ∧ ([0x01#8, 0xF7#8].length = [0x02#8, 0xF7#8].length ∧
      [0x01#8, 0xF7#8].getLast? = [0x02#8, 0xF7#8].getLast?) ∧
    (0x80#8 < 0xF0#8 ∧ typeNibble 0x80#8 = typeNibble 0x8F#8) ∧ ([0x01#8].getLast? ≠ some 0xF7#8) ∧
    Instr.sysF2 ∈ [Instr.ch8 0, .sysF2] := by decide

/-- FirstStatusByteOpensAMessage, FirstOneByteMessageIsEmittedAtOnce, FirstDataByteWithoutStatusIsOrphan: the first
and the last constructor of each class, in the ready state. -/
theorem witness_first_byte : (opensMessage (.ch8 0) = true ∧ opensMessage .sysF3 = true) ∧
    (standsAlone .sysF4 = true ∧ standsAlone .sysFF = true) ∧ isData (.data 127) = true ∧
    ((st [] none).buf = [] ∧ (st [] none).rs = none) := by decide

/-- FirstDataByteContinuesRunningStatus: a running status of each format, at the ends of its ranges. -/
theorem witness_continue : ∀ r ∈ [0x80#8, 0xBF#8, 0xE0#8, 0xEF#8, 0xF2#8, 0xC0#8, 0xDF#8, 0xF1#8, 0xF3#8, 0xF0#8],
    (st [] (some r)).buf = [] ∧ (st [] (some r)).rs = some r ∧ 0x80#8 ≤ r ∧ r ≤ 0xF3#8 := by decide

/-- The formats of the running statuses above. -/
theorem witness_formats : takesThree 0x80#8 ∧ takesThree 0xBF#8 ∧ takesThree 0xE0#8 ∧ takesThree 0xEF#8 ∧ takesThree 0xF2#8 ∧
    takesTwo 0xC0#8 ∧ takesTwo 0xDF#8 ∧ takesTwo 0xF1#8 ∧ takesTwo 0xF3#8 := by
  unfold takesThree takesTwo; decide

/-- LaterByteIsAppendedWhateverItIs: a byte that completes and one that does not. -/
theorem witness_later :
    ((st [0xF0#8] none).buf ≠ [] ∧ (st [0xF0#8] none).len < Config.bufCap) ∧
    (∃ n, classify ((st [0xF0#8] none).buf ++ [Instr.sysF7.byte]) = .len n ∧ n ≤ (st [0xF0#8] none).len + 1) ∧
    (∀ n, classify ((st [0xF0#8] none).buf ++ [(Instr.data 1).byte]) = .len n → (st [0xF0#8] none).len + 1 < n) :=
  ⟨⟨by simp [st], by simp [st, Config.bufCap]⟩, ⟨2, rfl, by simp [st]⟩, fun n h => by cases h⟩

/-- MessageCompletesByItsFormat: each clause's buffer. -/
theorem witness_completes : (∀ buf ∈ [[0xC0#8], [0x90#8], [0x90#8, 0x40#8], [0xF0#8, 0x01#8]],
      (st buf none).len < Config.bufCap) ∧
    Instr.sysF7.byte = 0xF7#8 ∧ (Instr.data 1).byte ≠ 0xF7#8 ∧ takesTwo 0xC0#8 ∧ takesThree 0x90#8 := by
  refine ⟨by simp [st, Config.bufCap], by decide, by decide, ?_, ?_⟩
  · unfold takesTwo; decide
  · unfold takesThree; decide

/-- FullBufferOverflows: a full buffer that meets the invariants, and each class of byte. -/
theorem witness_full : full.len = Config.bufCap ∧ full.Inv ∧
    isData (.data 0) = true ∧ opensMessage .sysex = true ∧ standsAlone .sysF7 = true :=
  ⟨full_len, full_inv, rfl, rfl, rfl⟩

/-- AtMostOneMessagePerByte, InstructionsLeaveTheRestUnchanged: a step that emits and one that does not. -/
theorem witness_exec : (∃ t, exec (.data 0x7F#7) (st [0x90#8, 0x40#8] (some 0x90#8)) = .next t ∧ t.msg ≠ none) ∧
    (∃ t, exec .sysex (st [0x90#8] (some 0x90#8)) = .next t ∧ t.msg = none) :=
  ⟨⟨_, test_data_completes, by simp [sent]⟩, _, rfl, rfl⟩

/-- RunningStatusHasTheseWriters, FlagsAreStickyAndUnread, OutputPortsShowTheStep: a byte presented to an empty, to a full and to a partly
filled buffer. -/
theorem witness_byte_step : ∀ s ∈ [st [] none, full, st [0x90#8] (some 0x90#8)], ∀ b ∈ [0x7F#8, 0x80#8, 0xF3#8, 0xF4#8],
    ∃ t, step { s with input := [byteIn b] } = .next t := by
  intro s _ b _
  have h := step_cases { s with input := [byteIn b] }
  rcases h with ⟨_, h⟩ | ⟨_, _, _, _, h⟩ | ⟨_, _, _, _, _, h⟩ | ⟨_, _, _, _, _, h⟩ <;> exact ⟨_, h⟩

/-- BehaviourDependsOnBufferAndStatusAlone: two states that agree in buffer and running status and in nothing else. -/
theorem witness_agree : (sent [] (some 0x90#8) [0xF8#8]).buf = (st [] (some 0x90#8)).buf ∧
    (sent [] (some 0x90#8) [0xF8#8]).rs = (st [] (some 0x90#8)).rs ∧ sent [] (some 0x90#8) [0xF8#8] ≠ st [] (some 0x90#8) := by
  decide

/-- StepKeepsTheInvariants, StepKeepsTheEmittedStreamWellFormed: a state in the middle of a message. -/
theorem witness_invariants : ∃ s t : State, s.Inv ∧ s.StreamInv ∧ s.buf ≠ [] ∧ step s = .next t :=
  ⟨st [0x90#8, 0x40#8] (some 0x90#8), _, note_inv, by simp [State.StreamInv, st, State.reset], by simp [st], rfl⟩

/-- EmittedLengthEqualsVerdict, EmittedMessageHasItsShape: an emitting instruction on a state that meets the
invariants. -/
theorem witness_emits : ∃ (i : Instr) (s t : State), s.Inv ∧ exec i s = .next t ∧ t.msg = some [0x90#8, 0x40#8, 0x7F#8] :=
  ⟨.data 0x7F#7, _, _, note_inv, test_data_completes, rfl⟩

/-- OutputPortsShowTheStep: a step that emits and a step that does not. -/
theorem witness_ports : (∃ s t : State, step s = .next t ∧ t.emitted = s.emitted ++ [[0xF8#8]]) ∧
    (∃ s t : State, step s = .next t ∧ t.msgValid = false) :=
  ⟨⟨{ st [] none with input := [byteIn 0xF8#8] }, _, rfl, rfl⟩, full, _, rfl, rfl⟩

/-- SentMessagesComeThrough: full and short forms, with a one-byte message between (V1). -/
theorem witness_wire : (st [] (some 0x90#8)).buf = [] ∧ (∀ r, (st [] (some 0x90#8)).rs = some r → 0x80#8 ≤ r ∧ r ≤ 0xF3#8) ∧
    wireOk Config.bufCap (st [] (some 0x90#8)).rs
      [([0x90#8, 0x40#8, 0x7F#8], false), ([0xF8#8], false), ([0x90#8, 0x41#8, 0x7F#8], true)] = true := by
  refine ⟨rfl, fun r h => ?_, ?_⟩
  · cases h; decide
  · simp [wireOk, messageWf, operandsFit, statusAfter, shortOk, setsStatus, isStatus, isOneByte, Config.bufCap, st]

/-- EveryByteIsAccountedFor: a stream that drops nothing. -/
theorem witness_accounted : (st [] none).Inv ∧ (st [] none).buf = [] ∧ ∃ t, runBytes [0xF8#8] (st [] none) = .next t ∧ t.lossless :=
  ⟨ready_inv none (by simp), rfl, _, rfl, rfl, rfl⟩

/-- LargeEnoughBufferIsUnbounded: a stream as long as the capacity. -/
theorem witness_unbounded : (st [] none).buf = [] ∧ (st [] none).rs = none ∧ [0xF0#8, 0x01#8, 0x02#8].length ≤ 3 := by decide

/-- OrphansUntilTheNextStatusByte: P3's first five bytes. -/
theorem witness_orphans : (st [] none).buf = [] ∧ (st [] none).rs = none ∧
    ∀ b ∈ [0x40#8, 0x7F#8, 0x41#8, 0xFA#8, 0x42#8], b < 0x80#8 ∨ 0xF4#8 ≤ b := by decide

/-- SysexIsAssembledUpToItsTerminator: the empty body and a body with a status byte, within the smallest capacity. -/
theorem witness_sysex : (0xF7#8 ∉ ([] : List Byte)) ∧ (0xF7#8 ∉ [0xF8#8]) ∧ ([0xF8#8].length + 2 ≤ Config.bufCap) ∧
    (st [] none).buf = [] := by
  refine ⟨by decide, by decide, by simp [Config.bufCap], rfl⟩

/-- LenFitsItsField: the largest `len`. -/
theorem witness_len_field : full.Inv ∧ full.len = Config.bufCap := ⟨full_inv, full_len⟩

/-- ShortFormIsTheOnlyPseudoForm: the short form at both ends of its ranges, and a step under each of the three clauses
on one step. -/
theorem witness_short_form : (∀ r ∈ [0x80#8, 0xF3#8], ∀ d ∈ [0x00#8, 0x7F#8],
      (st [] (some r)).buf = [] ∧ (st [] (some r)).rs = some r ∧ 0x80#8 ≤ r ∧ r ≤ 0xF3#8 ∧ d < 0x80#8) ∧
    (∃ t, exec (.data 0x41#7) (st [] (some 0x90#8)) = .next t) ∧
    (∃ t, exec (.data 0x41#7) (st [0x90#8] (some 0x90#8)) = .next t ∧ (st [0x90#8] (some 0x90#8)).len ≠ Config.bufCap) ∧
    (∃ t, exec (.data 0x41#7) full = .next t ∧ full.len = Config.bufCap) ∧
    (∃ t, exec (.data 0x41#7) (st [] none) = .next t ∧ (st [] none).rs = none) :=
  ⟨by decide, ⟨_, rfl⟩, ⟨_, rfl, by simp [st, State.len, Config.bufCap]⟩, ⟨_, rfl, full_len⟩, _, rfl, rfl⟩

end Sys2Proof.Tests
end

section
/-! SUPPORT. Family 00_scope: what a byte step runs, that the block's behaviour is a function of its buffer and running
status, that a large enough buffer is an unbounded one, and the width of `len`. -/

namespace Sys2Proof.Machine

/-! ### A step on a presented byte -/

theorem decode_singleton (b : Byte) : decode [b] = .ok (decodeByte b, []) := rfl

theorem decodeTableWord_eq (nbits w : Nat) : decodeTableWord nbits w = some (decodeByte (tableByte nbits w)) := rfl

theorem State.takeInput_of_cons {s : State} {p : InPort} {rest : List InPort} (h : s.input = p :: rest) :
    s.takeInput = { s with input := rest } := by
  simp [State.takeInput, h]

theorem State.takeInput_present (b : Byte) (s : State) : (s.present b).takeInput = s := rfl

/-- A step on a presented byte runs the row that the byte decodes to (rules R8, R11, R52). -/
theorem step_of_byteIn {s : State} {b : Byte} {rest : List InPort} (h : s.input = byteIn b :: rest) :
    step s = exec (decodeByte b) s.takeInput := by
  simp [step, h, byteIn]

/-- Settles O5: the decoder is total, so `i` is the row of the presented byte, and a table word is presented as its
byte. -/
theorem stepRunsTheDecodedInstruction : Obligations.StepRunsTheDecodedInstruction := by
  refine ⟨fun s b rest i hin hdec => ?_, fun s w i hdec => ?_⟩
  · have hi : decodeByte b = i := by simpa [decode_singleton] using hdec
    rw [step_of_byteIn hin, State.takeInput_of_cons hin, hi]
  · have hi : decodeByte (tableByte 8 w) = i := by simpa [decodeTableWord_eq] using hdec
    rw [State.withFetchWord, step_of_byteIn (State.present_input s _), State.takeInput_present, hi]

/-! ### Noninterference: the flags, the outputs and the inputs to come do not reach the messages -/

/-- From `s₁` to `t₁` and from `s₂` to `t₂` the same messages were emitted, and the ends agree in buffer and running
status. -/
structure SameBehaviour (s₁ s₂ t₁ t₂ : State) : Prop where
  buf_eq : t₁.buf = t₂.buf
  rs_eq : t₁.rs = t₂.rs
  sameMessages : ∃ ms, t₁.emitted = s₁.emitted ++ ms ∧ t₂.emitted = s₂.emitted ++ ms

section
variable {s₁ s₂ t₁ t₂ u₁ u₂ : State}

theorem SameBehaviour.of_emitted_eq (hbuf : t₁.buf = t₂.buf) (hrs : t₁.rs = t₂.rs) (h₁ : t₁.emitted = s₁.emitted)
    (h₂ : t₂.emitted = s₂.emitted) : SameBehaviour s₁ s₂ t₁ t₂ :=
  ⟨hbuf, hrs, [], by simp [h₁], by simp [h₂]⟩

theorem SameBehaviour.trans (h : SameBehaviour s₁ s₂ t₁ t₂) (h' : SameBehaviour t₁ t₂ u₁ u₂) :
    SameBehaviour s₁ s₂ u₁ u₂ := by
  obtain ⟨-, -, ms, h₁, h₂⟩ := h
  obtain ⟨hbuf, hrs, ns, h₁', h₂'⟩ := h'
  exact ⟨hbuf, hrs, ms ++ ns, by simp [h₁', h₁], by simp [h₂', h₂]⟩

/-- Whether a buffer is complete is read off the buffer alone (rule R138). -/
theorem SameBehaviour.complete (h : SameBehaviour s₁ s₂ t₁ t₂) : SameBehaviour s₁ s₂ t₁.complete t₂.complete := by
  have hbuf := h.buf_eq
  cases hc : completes t₂.buf with
  | false => rwa [State.complete_of_not (hbuf ▸ hc), State.complete_of_not hc]
  | true =>
    rw [State.complete_of_completes (hbuf ▸ hc), State.complete_of_completes hc]
    exact h.trans ⟨rfl, h.rs_eq, [t₂.buf], by simp [hbuf], rfl⟩

theorem State.accept_sameBehaviour (b : Byte) (hbuf : s₁.buf = s₂.buf) (hrs : s₁.rs = s₂.rs) :
    SameBehaviour s₁ s₂ (s₁.accept b) (s₂.accept b) := by
  obtain ⟨h, hb⟩ | ⟨h, hb⟩ | ⟨h, hb, r, hr⟩ | ⟨h, hb, hr⟩ | h := State.accept_cases b s₂
  · rw [State.accept_status (hbuf.trans h) hb, State.accept_status h hb]
    exact .of_emitted_eq rfl rfl rfl rfl
  · rw [State.accept_oneByte (hbuf.trans h) hb, State.accept_oneByte h hb]
    exact ⟨hbuf, hrs, [[b]], rfl, rfl⟩
  · rw [State.accept_continue (hbuf.trans h) hb (hrs.trans hr), State.accept_continue h hb hr]
    exact SameBehaviour.complete (.of_emitted_eq rfl hrs rfl rfl)
  · rw [State.accept_orphan (hbuf.trans h) hb (hrs.trans hr), State.accept_orphan h hb hr]
    exact .of_emitted_eq hbuf hrs rfl rfl
  · rw [State.accept_later (hbuf ▸ h), State.accept_later h, hbuf]
    exact SameBehaviour.complete (.of_emitted_eq rfl hrs rfl rfl)

/-- The capacity check reads the buffer's length alone and emits nothing (rule R140). -/
theorem State.checkCapacity_sameBehaviour (cap : Nat) (hbuf : s₁.buf = s₂.buf) (hrs : s₁.rs = s₂.rs) :
    SameBehaviour s₁ s₂ (s₁.checkCapacity cap) (s₂.checkCapacity cap) := by
  by_cases h : s₂.buf.length = cap
  · rw [State.checkCapacity_of_eq (hbuf ▸ h), State.checkCapacity_of_eq h]
    exact .of_emitted_eq rfl rfl rfl rfl
  · rw [State.checkCapacity_of_ne (hbuf ▸ h), State.checkCapacity_of_ne h]
    exact .of_emitted_eq hbuf hrs rfl rfl

theorem feedAt_sameBehaviour (cap : Nat) (b : Byte) (hbuf : s₁.buf = s₂.buf) (hrs : s₁.rs = s₂.rs) :
    SameBehaviour s₁ s₂ (feedAt cap b s₁) (feedAt cap b s₂) := by
  have hcheck := State.checkCapacity_sameBehaviour cap hbuf hrs
  exact hcheck.trans (State.accept_sameBehaviour b hcheck.buf_eq hcheck.rs_eq)

theorem feedAll_sameBehaviour (cap : Nat) (bs : List Byte) (hbuf : s₁.buf = s₂.buf) (hrs : s₁.rs = s₂.rs) :
    SameBehaviour s₁ s₂ (feedAll cap bs s₁) (feedAll cap bs s₂) := by
  induction bs generalizing s₁ s₂ with
  | nil => exact .of_emitted_eq hbuf hrs rfl rfl
  | cons b bs ih =>
    have hfeed := feedAt_sameBehaviour cap b hbuf hrs
    exact hfeed.trans (ih hfeed.buf_eq hfeed.rs_eq)

end

/-- Settles O25: a run is a fold of `feed`, and every `feed` keeps two agreeing states in agreement. -/
theorem behaviourDependsOnBufferAndStatusAlone : Obligations.BehaviourDependsOnBufferAndStatusAlone := by
  intro bs s₁ s₂ hbuf hrs
  obtain ⟨hbuf', hrs', ms, h₁, h₂⟩ := feedAll_sameBehaviour Config.bufCap bs hbuf hrs
  exact ⟨_, _, ms, run_presentAll bs s₁, run_presentAll bs s₂, hbuf', hrs', h₁, h₂⟩

/-! ### A buffer at least as large as the stream -/

theorem State.complete_buf_length_le (s : State) : s.complete.buf.length ≤ s.buf.length := by
  obtain ⟨h, -⟩ | ⟨h, -⟩ := State.complete_cases s <;> simp [h]

/-- A byte takes one slot, but for the short form, which takes two and needs a running status (rule R135). -/
theorem State.accept_buf_length_le (b : Byte) (s : State) :
    (s.accept b).buf.length ≤ s.buf.length + 1 ∨ s.rs ≠ none ∧ (s.accept b).buf.length ≤ 2 := by
  obtain ⟨h, hb⟩ | ⟨h, hb⟩ | ⟨h, hb, r, hr⟩ | ⟨h, hb, hr⟩ | h := State.accept_cases b s
  · simp [State.accept_status h hb]
  · simp [State.accept_oneByte h hb]
  · rw [State.accept_continue h hb hr]
    exact .inr ⟨by simp [hr], State.complete_buf_length_le _⟩
  · simp [State.accept_orphan h hb hr]
  · rw [State.accept_later h]
    exact .inl ((State.complete_buf_length_le _).trans (by simp))

/-- With room for the bytes to come, and one slot more while there is a running status that the block may put back, the
capacity check never fires. Once a byte is fed, the second premise follows from the first: that byte's own slot is the
one more. -/
theorem feedAll_eq_unbounded {cap : Nat} (bs : List Byte) (s : State) (hroom : s.buf.length + bs.length ≤ cap)
    (hrs : s.rs ≠ none → bs.length + 1 ≤ cap) :
    feedAll cap bs s = bs.foldl (fun t b => feedUnbounded b t) s := by
  induction bs generalizing s with
  | nil => rfl
  | cons b bs ih =>
    rw [List.length_cons] at hroom hrs
    have hlen : (feedUnbounded b s).buf.length + bs.length ≤ cap := by
      obtain h | ⟨hr, h⟩ := State.accept_buf_length_le b s.noMessage
      · simp only [State.noMessage_buf] at h
        simp only [feedUnbounded]; omega
      · have := hrs hr
        simp only [feedUnbounded]; omega
    rw [feedAll_cons, feedAt_of_room (by omega), List.foldl_cons]
    exact ih _ hlen fun _ => by omega

/-- Settles O33: from the empty buffer with no running status there is room for the whole stream. -/
theorem largeEnoughBufferIsUnbounded : Obligations.LargeEnoughBufferIsUnbounded := by
  intro cap bs s hbuf hrs hcap
  exact feedAll_eq_unbounded bs s (by simpa [hbuf] using hcap) fun h => absurd hrs h

/-! ### The width of `len` -/

theorem Config.bufCap_lt_two_pow_lenW : Config.bufCap < 2 ^ Config.lenW :=
  Nat.le_pow_clog Nat.one_lt_two (Config.bufCap + 1)

theorem Config.two_pow_lenW_sub_one_le_bufCap : 2 ^ (Config.lenW - 1) ≤ Config.bufCap :=
  Nat.le_of_lt_succ (Nat.pow_pred_clog_lt_self Nat.one_lt_two
    (Nat.succ_lt_succ (Nat.pos_of_ne_zero Config.bufCap_ne_zero)))

theorem State.lenField_toNat {s : State} (h : s.len ≤ Config.bufCap) : s.lenField.toNat = s.len := by
  rw [State.lenField, BitVec.toNat_ofNat, Nat.mod_eq_of_lt (h.trans_lt Config.bufCap_lt_two_pow_lenW)]

/-- Settles O36: `LEN_W` is the ceiling of a logarithm, and item 1 of the invariants bounds `len` (rule R32). -/
theorem lenFitsItsField : Obligations.LenFitsItsField :=
  ⟨Config.bufCap_lt_two_pow_lenW, Config.two_pow_lenW_sub_one_le_bufCap, fun _ h => State.lenField_toNat h.lenLe⟩

end Sys2Proof.Machine
end

section
/-! SUPPORT. Family 10_state: the invariants of rule R32 over every step, what a byte does to each field of the state,
and what each kind of step does to the running status and to the flags. -/

namespace Sys2Proof.Machine

/-! ### The invariants of rule R32 -/

section
variable {cap : Nat} {b : Byte} {s t : State}

/-- The invariants speak of the buffer and the running status alone. -/
theorem State.InvAt.congr (h : s.InvAt cap) (hbuf : t.buf = s.buf) (hrs : t.rs = s.rs) : t.InvAt cap where
  lenLe := by simpa [hbuf] using h.lenLe
  firstIsStatus := by rw [hbuf]; exact h.firstIsStatus
  incomplete := by simpa [hbuf] using h.incomplete
  firstIsRs := by rw [hbuf, hrs]; exact h.firstIsRs
  rsIsStatus := by rw [hrs]; exact h.rsIsStatus
  shortUnlessSysex := by simpa [hbuf] using h.shortUnlessSysex
  noTerminator := by rw [hbuf]; exact h.noTerminator

/-- With an empty buffer only item 5 says anything. -/
theorem State.invAt_of_empty (hbuf : s.buf = []) (hrs : ∀ r, s.rs = some r → 0x80#8 ≤ r ∧ r ≤ 0xF3#8) :
    s.InvAt cap where
  lenLe := by simp [hbuf]
  firstIsStatus := by simp [hbuf]
  incomplete := by simp [hbuf]
  firstIsRs := by simp [hbuf]
  rsIsStatus := hrs
  shortUnlessSysex := by simp [hbuf]
  noTerminator := by simp [hbuf]

/-- A buffer that is not complete is shorter than the classifier's verdict on it (rule R138). -/
theorem length_lt_of_not_completes {bs : List Byte} {n : Nat} (hc : completes bs = false)
    (hn : classify bs = .len n) : bs.length < n := by
  by_contra hle
  have : completes bs = true := (completes_iff bs).2 ⟨n, hn, not_lt.1 hle⟩
  simp [this] at hc

/-- Off `0xF0` a buffer that is not complete has at most two bytes: every fixed format ends by the third. -/
theorem length_le_two_of_not_completes {op : Byte} {xs : List Byte} (hop : 0x80#8 ≤ op ∧ op ≤ 0xF3#8)
    (hne : op ≠ 0xF0#8) (hc : completes (op :: xs) = false) : (op :: xs).length ≤ 2 := by
  rw [List.length_cons]
  obtain h | h | h := format_of_status hop.1 hop.2
  · have : ¬ 2 ≤ xs.length := by simpa [completes_three h] using hc
    omega
  · have : ¬ 1 ≤ xs.length := by simpa only [completes_two h, decide_eq_false_iff_not] using hc
    omega
  · exact absurd h hne

/-- A buffer that fits, opened by the running status, not complete and without an interior terminator, meets all seven
items. -/
theorem State.invAt_of_incomplete {op : Byte} {xs : List Byte} (hbuf : s.buf = op :: xs) (hlen : s.buf.length ≤ cap)
    (hop : 0x80#8 ≤ op ∧ op ≤ 0xF3#8) (hrs : s.rs = some op) (hc : completes (op :: xs) = false)
    (hterm : op = 0xF0#8 → 0xF7#8 ∉ xs) : s.InvAt cap where
  lenLe := hlen
  firstIsStatus := by
    rintro op' xs' h
    obtain ⟨rfl, rfl⟩ := List.cons.inj (hbuf.symm.trans h)
    exact hop
  incomplete n _ hn := by
    rw [hbuf] at hn
    simpa [hbuf] using length_lt_of_not_completes hc hn
  firstIsRs := by
    rintro op' xs' h
    obtain ⟨rfl, rfl⟩ := List.cons.inj (hbuf.symm.trans h)
    exact hrs
  rsIsStatus r hr := by
    obtain rfl : op = r := Option.some.inj (hrs.symm.trans hr)
    exact hop
  shortUnlessSysex := by
    rintro op' xs' h hne
    obtain ⟨rfl, rfl⟩ := List.cons.inj (hbuf.symm.trans h)
    simpa [hbuf] using length_le_two_of_not_completes hop hne hc
  noTerminator := by
    rintro xs' h
    obtain ⟨rfl, rfl⟩ := List.cons.inj (hbuf.symm.trans h)
    exact hterm rfl

/-- Classifying after a byte is stored restores the invariants: a complete buffer is emptied, and in one that is kept
the byte just stored is no terminator. -/
theorem State.complete_invAt_of_concat {op : Byte} {xs : List Byte} (hbuf : s.buf = op :: (xs ++ [b]))
    (hlen : s.buf.length ≤ cap) (hop : 0x80#8 ≤ op ∧ op ≤ 0xF3#8) (hrs : s.rs = some op)
    (hterm : op = 0xF0#8 → 0xF7#8 ∉ xs) : s.complete.InvAt cap := by
  obtain ⟨hs, hc⟩ | ⟨hs, -⟩ := State.complete_cases s
  · rw [hbuf] at hc
    rw [hs]
    refine State.invAt_of_incomplete hbuf hlen hop hrs hc fun h => ?_
    subst h
    have hlast : b ≠ 0xF7#8 := by simpa [completes_sysex] using hc
    simpa [hlast.symm] using hterm rfl
  · rw [hs]
    refine State.invAt_of_empty (State.emit_buf s) fun r hr => ?_
    obtain rfl : op = r := Option.some.inj (hrs.symm.trans hr)
    exact hop

/-- Accepting a byte into a buffer with room keeps the invariants; the short form takes two slots (rule R135). -/
theorem State.accept_invAt (b : Byte) (hcap : 2 ≤ cap) (h : s.InvAt cap) (hroom : s.buf.length < cap) :
    (s.accept b).InvAt cap := by
  obtain ⟨he, hb⟩ | ⟨he, hb⟩ | ⟨he, hb, r, hr⟩ | ⟨he, hb, hr⟩ | hne := State.accept_cases b s
  · rw [State.accept_status he hb]
    have hone : completes [b] = false := by
      rw [completes_singleton]
      simp only [setsStatus, Bool.and_eq_true, Bool.not_eq_true'] at hb
      exact hb.2
    exact State.invAt_of_incomplete rfl (by simp; omega) ((setsStatus_iff b).1 hb) rfl hone (by simp)
  · rw [State.accept_oneByte he hb]
    exact h.congr rfl rfl
  · rw [State.accept_continue he hb hr]
    exact State.complete_invAt_of_concat (xs := []) rfl hcap (h.rsIsStatus r hr) hr (by simp)
  · rw [State.accept_orphan he hb hr]
    exact h.congr rfl rfl
  · rw [State.accept_later hne]
    obtain ⟨op, xs, hbuf⟩ := List.exists_cons_of_ne_nil hne
    refine State.complete_invAt_of_concat (by rw [hbuf]; rfl) (by simpa using hroom) (h.firstIsStatus op xs hbuf)
      (h.firstIsRs op xs hbuf) ?_
    rintro rfl
    exact h.noTerminator xs hbuf

/-- The capacity check keeps the invariants and leaves room for a byte (rule R140). -/
theorem State.checkCapacity_invAt (hcap : 0 < cap) (h : s.InvAt cap) :
    (s.checkCapacity cap).InvAt cap ∧ (s.checkCapacity cap).buf.length < cap := by
  by_cases hfull : s.buf.length = cap
  · rw [State.checkCapacity_of_eq hfull]
    exact ⟨State.invAt_of_empty rfl (by simp), hcap⟩
  · rw [State.checkCapacity_of_ne hfull]
    exact ⟨h.congr rfl rfl, lt_of_le_of_ne h.lenLe hfull⟩

theorem feedAt_invAt (b : Byte) (hcap : 2 ≤ cap) (h : s.InvAt cap) : (feedAt cap b s).InvAt cap := by
  obtain ⟨hinv, hroom⟩ := State.checkCapacity_invAt (by omega) h
  exact State.accept_invAt b hcap hinv hroom

theorem State.resetStep_invAt (s : State) : s.resetStep.InvAt cap := State.invAt_of_empty rfl (by simp)

end

/-! ### What each kind of step answers -/

section
variable {s t : State} {p : InPort} {rest : List InPort}

/-- The states a step can answer (rule R52). -/
theorem eq_of_step (h : step s = .next t) :
    t = s.idleStep ∨ t = s.takeInput.resetStep ∨ t = s.takeInput.idleStep ∨ ∃ b, t = feed b s.takeInput := by
  obtain ⟨-, hs⟩ | ⟨p, rest, -, -, hs⟩ | ⟨p, rest, -, -, -, hs⟩ | ⟨p, rest, -, -, -, hs⟩ := step_cases s <;>
    obtain rfl := Host.Outcome.next.inj (hs.symm.trans h)
  · exact .inl rfl
  · exact .inr (.inl rfl)
  · exact .inr (.inr (.inl rfl))
  · exact .inr (.inr (.inr ⟨p.inData, rfl⟩))

theorem eq_idleStep_of_step_nil (h : step s = .next t) (hin : s.input = []) : t = s.idleStep := by
  simpa [step, hin, eq_comm] using h

theorem eq_resetStep_of_step (h : step s = .next t) (hin : s.input = p :: rest) (hrst : p.rst = true) :
    t = s.takeInput.resetStep := by
  simpa [step, hin, hrst, eq_comm] using h

theorem eq_idleStep_of_step (h : step s = .next t) (hin : s.input = p :: rest) (hrst : p.rst = false)
    (hval : p.inValid = false) : t = s.takeInput.idleStep := by
  simpa [step, hin, hrst, hval, eq_comm] using h

theorem eq_feed_of_step (h : step s = .next t) (hin : s.input = p :: rest) (hrst : p.rst = false)
    (hval : p.inValid = true) : t = feed p.inData s.takeInput := by
  simpa [step, hin, hrst, hval, exec_eq_feed, byte_decodeByte, eq_comm] using h

theorem eq_feed_of_exec {i : Instr} (h : exec i s = .next t) : t = feed i.byte s := by
  simpa [exec_eq_feed, eq_comm] using h

end

theorem Config.two_le_bufCap : 2 ≤ Config.bufCap := Nat.le_of_succ_le Config.three_le_bufCap

/-- Settles O27, by the state the step answers: an idle step changes neither buffer nor running status, a reset step
empties both, and a fed byte keeps the invariants at every capacity that holds the short form. -/
theorem stepKeepsTheInvariants : Obligations.StepKeepsTheInvariants := by
  refine ⟨fun s t hinv hstep => ?_, fun s t p rest hin hrst hstep => ?_⟩
  · obtain rfl | rfl | rfl | ⟨b, rfl⟩ := eq_of_step hstep
    · exact State.InvAt.congr hinv rfl rfl
    · exact s.takeInput.resetStep_invAt
    · exact State.InvAt.congr hinv rfl rfl
    · exact feedAt_invAt b Config.two_le_bufCap (State.InvAt.congr hinv rfl rfl)
  · rw [eq_resetStep_of_step hstep hin hrst]
    exact s.takeInput.resetStep_invAt

/-! ### What a byte does to each field -/

section
variable {cap : Nat} {b : Byte} {s : State}

theorem State.complete_output (h : s.msg = none) : s.complete.emitted = s.emitted ++ s.complete.msg.toList := by
  obtain ⟨hc, -⟩ | ⟨hc, -⟩ := State.complete_cases s <;> simp [hc, h]

theorem State.accept_output (b : Byte) (hmsg : s.msg = none) :
    (s.accept b).emitted = s.emitted ++ (s.accept b).msg.toList := by
  obtain ⟨h, hb⟩ | ⟨h, hb⟩ | ⟨h, hb, r, hr⟩ | ⟨h, hb, hr⟩ | h := State.accept_cases b s
  · simp [State.accept_status h hb, hmsg]
  · simp [State.accept_oneByte h hb]
  · rw [State.accept_continue h hb hr]
    exact State.complete_output hmsg
  · simp [State.accept_orphan h hb hr, hmsg]
  · rw [State.accept_later h]
    exact State.complete_output hmsg

@[simp] theorem State.checkCapacity_msg (cap : Nat) (s : State) : (s.checkCapacity cap).msg = none := by
  unfold State.checkCapacity; split <;> rfl

@[simp] theorem State.checkCapacity_emitted (cap : Nat) (s : State) : (s.checkCapacity cap).emitted = s.emitted := by
  unfold State.checkCapacity; split <;> rfl

/-- `emitted` grows by the step's output and by nothing else (rules R55, R63). -/
theorem feedAt_output (cap : Nat) (b : Byte) (s : State) :
    (feedAt cap b s).emitted = s.emitted ++ (feedAt cap b s).msg.toList := by
  rw [feedAt, State.accept_output b (State.checkCapacity_msg cap s), State.checkCapacity_emitted]

/-- While nothing is put out, classifying changes nothing. -/
theorem State.complete_of_msg_none (h : s.complete.msg = none) : s.complete = s := by
  obtain ⟨hc, -⟩ | ⟨hc, -⟩ := State.complete_cases s
  · exact hc
  · simp [hc] at h

/-- A byte after which nothing is put out leaves the bytes already stored where they are (rule R24). -/
theorem State.buf_prefix_accept_buf (hmsg : (s.accept b).msg = none) : s.buf <+: (s.accept b).buf := by
  by_cases h : s.buf = []
  · simp [h]
  · rw [State.accept_later h] at hmsg ⊢
    rw [State.complete_of_msg_none hmsg]
    exact List.prefix_append s.buf [b]

/-- Only an overflow sets `FLAGS.ovf` (rule R172). -/
theorem feedAt_ovf_iff (cap : Nat) (b : Byte) (s : State) :
    (feedAt cap b s).ovf = true ↔ s.ovf = true ∨ s.buf.length = cap := by
  by_cases h : s.buf.length = cap
  · simp [feedAt_of_full h, h]
  · simp [feedAt_of_room h, feedUnbounded, h]

theorem State.accept_orphan_iff (b : Byte) (s : State) :
    (s.accept b).orphan = true ↔ s.orphan = true ∨ s.buf = [] ∧ isStatus b = false ∧ s.rs = none := by
  simp [State.accept_orphanFlag, and_assoc]

/-- Only a data byte that is a first byte, of itself or after an overflow, sets `FLAGS.orphan`, and only where there is
no running status, which there never is after an overflow (rules R140, R171). -/
theorem feedAt_orphan_iff (cap : Nat) (b : Byte) (s : State) :
    (feedAt cap b s).orphan = true ↔
      s.orphan = true ∨ isStatus b = false ∧ (s.buf.length = cap ∨ s.buf = [] ∧ s.rs = none) := by
  by_cases h : s.buf.length = cap
  · simp [feedAt_of_full h, State.accept_orphan_iff, h]
  · simp [feedAt_of_room h, feedUnbounded, State.accept_orphan_iff, h, and_left_comm]

/-- A first byte `0x80` to `0xF3`, also one after an overflow, becomes the running status (rule R27). -/
theorem feedAt_rs_of_setsStatus (hfirst : s.buf = [] ∨ s.buf.length = cap) (hb : setsStatus b = true) :
    (feedAt cap b s).rs = some b := by
  by_cases h : s.buf.length = cap
  · simp [feedAt_of_full h, State.accept_rs, hb]
  · simp [feedAt_of_room h, feedUnbounded, State.accept_rs, hfirst.resolve_right h, hb]

/-- After an overflow any other byte leaves no running status (rules R27, R140). -/
theorem feedAt_rs_of_full (hfull : s.buf.length = cap) (hb : setsStatus b = false) :
    (feedAt cap b s).rs = none := by
  simp [feedAt_of_full hfull, State.accept_rs, hb]

/-- Without an overflow, a later byte and a byte of another class leave the running status (rule R27). -/
theorem feedAt_rs_of_room (hroom : s.buf.length ≠ cap) (h : s.buf ≠ [] ∨ setsStatus b = false) :
    (feedAt cap b s).rs = s.rs := by
  have hnot : ¬(s.buf = [] ∧ setsStatus b = true) := by
    rintro ⟨he, hb⟩
    simp [he, hb] at h
  rw [feedAt_of_room hroom, feedUnbounded, State.accept_rs, State.noMessage_buf, if_neg hnot, State.noMessage_rs]

end

/-! ### The classes of bytes and of instructions -/

/-- The three classes of instructions are the classes of their bytes (rules R27, R70, R133). -/
theorem byte_classes (i : Instr) :
    isStatus i.byte = !isData i ∧ setsStatus i.byte = opensMessage i ∧ isOneByte i.byte = standsAlone i := by
  cases i with
  | data d => revert d; decide
  | ch8 c | ch9 c | chA c | chB c | chC c | chD c | chE c => revert c; decide
  | _ => decide

theorem isStatus_eq_false_iff (b : Byte) : isStatus b = false ↔ b < 0x80#8 := by simp [isStatus]

theorem setsStatus_eq_false_iff (b : Byte) : setsStatus b = false ↔ b < 0x80#8 ∨ 0xF4#8 ≤ b := by
  rw [← Bool.not_eq_true, setsStatus_iff]; bv_omega

/-! ### The frame of an instruction and the writers of the running status -/

/-- Settles O22, field by field. -/
theorem instructionsLeaveTheRestUnchanged : Obligations.InstructionsLeaveTheRestUnchanged := by
  intro i s t hexec
  obtain rfl := eq_feed_of_exec hexec
  simp only [feed, State.len_eq]
  obtain ⟨hdata, hopens, -⟩ := byte_classes i
  refine ⟨feedAt_input _ _ s, ⟨_, (feedAt_output _ _ s).symm⟩, fun hroom => ?_, fun h => ?_, fun hroom h => ?_,
    fun hroom hmsg => ?_⟩
  · rw [Bool.eq_iff_iff, feedAt_ovf_iff]; simp [hroom]
  · rw [Bool.eq_iff_iff, feedAt_orphan_iff, hdata]
    obtain hstatus | ⟨hrs, hroom⟩ := h
    · simp [hstatus]
    · simp [hrs, hroom]
  · exact feedAt_rs_of_room hroom (by rwa [hopens])
  · rw [feedAt_of_room hroom] at hmsg ⊢
    exact State.buf_prefix_accept_buf (s := s.noMessage) hmsg

/-- Settles O23, by the kind of input: a byte writes it as a first byte, and an overflow makes it one. -/
theorem runningStatusHasTheseWriters : Obligations.RunningStatusHasTheseWriters := by
  intro s t hstep
  refine ⟨fun hin => ?_, fun p rest hin => ⟨fun hrst => ?_, fun hrst hval => ?_, fun hrst hval => ?_⟩⟩
  · rw [eq_idleStep_of_step_nil hstep hin, State.idleStep_rs]
  · rw [eq_resetStep_of_step hstep hin hrst, State.resetStep_rs]
  · rw [eq_idleStep_of_step hstep hin hrst hval, State.idleStep_rs, State.takeInput_rs]
  · rw [eq_feed_of_step hstep hin hrst hval]
    simp only [State.len_eq]
    refine ⟨fun lo hi hfirst => ?_, fun h hfull => ?_, fun h hroom => ?_, fun hne hroom => ?_⟩
    · exact feedAt_rs_of_setsStatus (by simpa using hfirst) ((setsStatus_iff _).2 ⟨lo, hi⟩)
    · exact feedAt_rs_of_full hfull ((setsStatus_eq_false_iff _).2 h)
    · exact feedAt_rs_of_room hroom (.inr ((setsStatus_eq_false_iff _).2 h))
    · exact feedAt_rs_of_room hroom (.inl (by simpa using hne))

/-! ### The flags -/

theorem State.flags_getLsbD_zero (s : State) : s.flags.getLsbD 0 = s.ovf := by
  rw [State.flags, BitVec.getLsbD_append]; simp

theorem State.flags_getLsbD_one (s : State) : s.flags.getLsbD 1 = s.orphan := by
  rw [State.flags, BitVec.getLsbD_append]; simp

section
variable {s s₁ s₂ t t₁ t₂ : State}

/-- Over every step `emitted` grows by the step's output (rules R52, R55). -/
theorem step_output (h : step s = .next t) : t.emitted = s.emitted ++ t.msg.toList := by
  obtain rfl | rfl | rfl | ⟨b, rfl⟩ := eq_of_step h
  · simp
  · simp
  · simp
  · exact feedAt_output Config.bufCap b s.takeInput

/-- The output of a step can be read off what the step added to `emitted`. -/
theorem msg_eq_of_step (h₁ : step s₁ = .next t₁) (h₂ : step s₂ = .next t₂) (hs : s₁.emitted = s₂.emitted)
    (ht : t₁.emitted = t₂.emitted) : t₁.msg = t₂.msg := by
  have hlist : t₁.msg.toList = t₂.msg.toList := by
    rw [step_output h₁, step_output h₂, hs] at ht
    exact List.append_cancel_left ht
  simpa using congrArg List.head? hlist

/-- A step on the same input keeps agreement in buffer and running status, and emits the same. -/
theorem step_sameBehaviour (hbuf : s₁.buf = s₂.buf) (hrs : s₁.rs = s₂.rs) (hin : s₁.input = s₂.input)
    (h₁ : step s₁ = .next t₁) (h₂ : step s₂ = .next t₂) : SameBehaviour s₁ s₂ t₁ t₂ := by
  obtain ⟨h, -⟩ | ⟨p, rest, h, hrst, -⟩ | ⟨p, rest, h, hrst, hval, -⟩ | ⟨p, rest, h, hrst, hval, -⟩ := step_cases s₂
  · rw [eq_idleStep_of_step_nil h₁ (hin.trans h), eq_idleStep_of_step_nil h₂ h]
    exact .of_emitted_eq hbuf hrs rfl rfl
  · rw [eq_resetStep_of_step h₁ (hin.trans h) hrst, eq_resetStep_of_step h₂ h hrst]
    exact .of_emitted_eq rfl rfl rfl rfl
  · rw [eq_idleStep_of_step h₁ (hin.trans h) hrst hval, eq_idleStep_of_step h₂ h hrst hval]
    exact .of_emitted_eq hbuf hrs rfl rfl
  · rw [eq_feed_of_step h₁ (hin.trans h) hrst hval, eq_feed_of_step h₂ h hrst hval]
    have htake : SameBehaviour s₁ s₂ s₁.takeInput s₂.takeInput := .of_emitted_eq hbuf hrs rfl rfl
    exact htake.trans (feedAt_sameBehaviour Config.bufCap p.inData htake.buf_eq htake.rs_eq)

end

/-- Settles O24: the writers of the flags by the kind of input, and two runs that differ in the flags alone. -/
theorem flagsAreStickyAndUnread : Obligations.FlagsAreStickyAndUnread := by
  refine ⟨fun s => ⟨⟨s.flags_getLsbD_zero, s.flags_getLsbD_one⟩, rfl, rfl⟩, fun s t hstep => ?_,
    fun s t t' v o h h' => ?_⟩
  · refine ⟨fun hin => ?_, fun p rest hin => ⟨fun hrst => ?_, fun hrst hval => ?_, fun hrst hval => ?_⟩⟩
    · rw [eq_idleStep_of_step_nil hstep hin]
      exact ⟨rfl, rfl⟩
    · rw [eq_resetStep_of_step hstep hin hrst]
      exact ⟨rfl, rfl⟩
    · rw [eq_idleStep_of_step hstep hin hrst hval]
      exact ⟨rfl, rfl⟩
    · rw [eq_feed_of_step hstep hin hrst hval, feed, feedAt_ovf_iff, feedAt_orphan_iff]
      simp [State.rsValid, isStatus_eq_false_iff]
  · obtain ⟨hbuf, hrs, ms, hms', hms⟩ :=
      step_sameBehaviour (s₁ := { s with ovf := v, orphan := o }) (s₂ := s) rfl rfl rfl h' h
    have hemitted : t'.emitted = t.emitted := hms'.trans hms.symm
    exact ⟨hbuf, hrs, msg_eq_of_step h' h rfl hemitted, hemitted⟩

/-! ### Reset -/

/-- Settles O1: each value is a field of the state after reset, or a view of such fields. -/
theorem resetStateHoldsTheSpecsValues : Obligations.ResetStateHoldsTheSpecsValues :=
  ⟨rfl, rfl, rfl, rfl, rfl, rfl⟩

end Sys2Proof.Machine
end

section
/-! SUPPORT. Family 20_memory: the streams of rule R50. No step stops, the output ports show what a step emitted, and
over a run that drops nothing the bytes fed are the messages emitted and then the buffer. -/

namespace Sys2Proof.Machine

/-! ### Totality and the output ports -/

/-- Settles O20: an instruction is `feed` of its byte, and each kind of step answers a next state. -/
theorem noInstructionAndNoStepStops : Obligations.NoInstructionAndNoStepStops := by
  refine ⟨fun i s => ⟨_, exec_eq_feed i s⟩, fun s => ?_⟩
  obtain ⟨-, h⟩ | ⟨_, _, -, -, h⟩ | ⟨_, _, -, -, -, h⟩ | ⟨_, _, -, -, -, h⟩ := step_cases s <;> exact ⟨_, h⟩

theorem State.idle_iff (s : State) : s.idle = true ↔ s.len = 0 := by simp [State.idle]

/-- Settles O37, by the output of the step: without one the streams agree and the ports hold no value, with one it is
the message that `emitted` grew by. -/
theorem outputPortsShowTheStep : Obligations.OutputPortsShowTheStep := by
  intro s t hstep
  have hout := step_output hstep
  refine ⟨?_, fun m hm => ?_, fun hvalid => ?_, t.idle_iff, rfl, rfl⟩
  · cases hmsg : t.msg <;> simp [State.msgValid, hout, hmsg]
  · have hlist : t.msg.toList = [m] := List.append_cancel_left (hout.symm.trans hm)
    have hmsg : t.msg = some m := Option.toList_eq_singleton_iff.1 hlist
    simp [State.msgLen, State.msgData, hmsg]
  · have hmsg : t.msg = none := by simpa [State.msgValid] using hvalid
    simp [State.msgLen, State.msgData, hmsg]

/-! ### The operands of a complete message, by format -/

section
variable {cap : Nat} {op b : Byte} {xs : List Byte}

theorem operandsFit_three (h : takesThree op) (xs : List Byte) : operandsFit op xs = (xs.length == 2) := by
  unfold takesThree at h
  unfold operandsFit
  split_ifs <;> first | rfl | (exfalso; bv_omega)

theorem operandsFit_two (h : takesTwo op) (xs : List Byte) : operandsFit op xs = (xs.length == 1) := by
  unfold takesTwo at h
  unfold operandsFit
  split_ifs <;> first | rfl | (exfalso; bv_omega)

theorem operandsFit_sysex (xs : List Byte) : operandsFit 0xF0#8 xs = sysexTail xs := rfl

theorem operandsFit_oneByte (h : isOneByte op = true) : operandsFit op [] = true := by
  revert h; revert op; decide

/-- The byte that completes a buffer is the last operand its format takes (rules R72, R138). -/
theorem operandsFit_of_completes (hop : 0x80#8 ≤ op ∧ op ≤ 0xF3#8) (hinc : completes (op :: xs) = false)
    (hterm : op = 0xF0#8 → 0xF7#8 ∉ xs) (hc : completes (op :: (xs ++ [b])) = true) :
    operandsFit op (xs ++ [b]) = true := by
  obtain h | h | rfl := format_of_status hop.1 hop.2
  · simp only [completes_three h, decide_eq_true_eq, decide_eq_false_iff_not, List.length_append,
      List.length_singleton] at hinc hc
    rw [operandsFit_three h, List.length_append, List.length_singleton, beq_iff_eq]
    omega
  · simp only [completes_two h, decide_eq_false_iff_not] at hinc
    rw [operandsFit_two h, List.length_append, List.length_singleton, beq_iff_eq]
    omega
  · have hlast : b = 0xF7#8 := by simpa [completes_sysex] using hc
    have hnot : ∀ x ∈ xs, x ≠ 0xF7#8 := fun x hx hxb => hterm rfl (hxb ▸ hx)
    simpa [operandsFit_sysex, sysexTail, hlast] using hnot

/-- A buffer that a stored byte completes has the shape of rule R144. -/
theorem messageWf_of_completes {s : State} (hbuf : s.buf = op :: (xs ++ [b])) (hlen : s.buf.length ≤ cap)
    (hop : 0x80#8 ≤ op ∧ op ≤ 0xF3#8) (hinc : completes (op :: xs) = false) (hterm : op = 0xF0#8 → 0xF7#8 ∉ xs)
    (hc : completes s.buf = true) : messageWf cap s.buf = true := by
  rw [hbuf] at hc hlen ⊢
  rw [messageWf, operandsFit_of_completes hop hinc hterm hc, Bool.true_and, decide_eq_true_eq]
  exact hlen

theorem messageWf_oneByte (hcap : 1 ≤ cap) (hb : isOneByte b = true) : messageWf cap [b] = true := by
  simp [messageWf, operandsFit_oneByte hb, hcap]

/-- Item 3 of the invariants, by the completion test. -/
theorem State.InvAt.completes_eq_false {s : State} (h : s.InvAt cap) (hne : s.buf ≠ []) :
    completes s.buf = false := by
  rw [← Bool.not_eq_true, completes_iff]
  rintro ⟨n, hn, hle⟩
  exact absurd (h.incomplete n hne hn) (not_lt.2 hle)

theorem completes_singleton_of_status (hb : 0x80#8 ≤ b ∧ b ≤ 0xF3#8) : completes [b] = false := by
  rw [completes_singleton, ← Bool.not_eq_true, isOneByte_iff]; bv_omega

end

/-! ### Messages on the wire -/

/-- The running status after the messages `ms`, in whichever form they were sent (rule R146). -/
def statusAfterAll (rs : Option Byte) (ms : List (Message × Bool)) : Option Byte :=
  (ms.map Prod.fst).foldl statusAfter rs

section
variable (cap : Nat) (rs : Option Byte) (ms : List (Message × Bool)) (m : Message) (short : Bool) (b : Byte)

@[simp] theorem statusAfterAll_nil : statusAfterAll rs [] = rs := rfl

@[simp] theorem statusAfterAll_concat :
    statusAfterAll rs (ms ++ [(m, short)]) = statusAfter (statusAfterAll rs ms) m := by
  simp [statusAfterAll]

@[simp] theorem statusAfter_nil : statusAfter rs [] = rs := rfl

@[simp] theorem sentBytes_nil : sentBytes ([], short) = [] := by cases short <;> rfl

@[simp] theorem wireBytes_nil : wireBytes [] = [] := rfl

@[simp] theorem wireBytes_concat : wireBytes (ms ++ [(m, short)]) = wireBytes ms ++ sentBytes (m, short) := by
  simp [wireBytes]

/-- One message more can be sent if it can be sent under the running status that those before it leave. -/
theorem wireOk_concat :
    wireOk cap rs (ms ++ [(m, short)]) =
      (wireOk cap rs ms && (messageWf cap m && (!short || shortOk (statusAfterAll rs ms) m))) := by
  induction ms generalizing rs with
  | nil => simp [wireOk]
  | cons p ms ih =>
    obtain ⟨m', short'⟩ := p
    simp only [List.cons_append, wireOk, ih, Bool.and_assoc]
    rfl

/-- Both forms of a message already begun grow by the byte stored. -/
theorem sentBytes_concat {m : Message} (h : m ≠ []) : sentBytes (m ++ [b], short) = sentBytes (m, short) ++ [b] := by
  cases short
  · rfl
  · exact List.tail_append_of_ne_nil h

theorem statusAfter_concat {m : Message} (h : m ≠ []) : statusAfter rs (m ++ [b]) = statusAfter rs m := by
  cases m
  · exact absurd rfl h
  · rfl

/-- Rule R81 looks at the first two bytes only. -/
theorem shortOk_concat {rs : Option Byte} {m : Message} (h : shortOk rs m = true) : shortOk rs (m ++ [b]) = true := by
  match m with
  | _ :: _ :: _ => exact h

/-- A short form is sent under the running status it leaves. -/
theorem statusAfter_of_shortOk {rs : Option Byte} {m : Message} (h : shortOk rs m = true) : statusAfter rs m = rs := by
  match m with
  | op :: d :: _ =>
    obtain ⟨hrs, -⟩ : rs = some op ∧ isStatus d = false := by simpa [shortOk] using h
    simp [statusAfter, hrs]

end

/-! ### The account of a run -/

/-- The account of the bytes `bs` that led from the ready state `s` to `t`: they are the bytes of the messages `ms`
emitted, and then the bytes of the buffer as the next message, in the form `short`. The status byte of the buffer counts
as the running status already (rule R132). -/
structure Account (cap : Nat) (s : State) (bs : List Byte) (t : State) (ms : List (Message × Bool)) (short : Bool) :
    Prop where
  sendable : wireOk cap s.rs ms = true
  emitted_eq : t.emitted = s.emitted ++ ms.map Prod.fst
  bytes_eq : bs = wireBytes ms ++ sentBytes (t.buf, short)
  rs_eq : t.rs = statusAfter (statusAfterAll s.rs ms) t.buf
  shortForm : short = true → shortOk (statusAfterAll s.rs ms) t.buf = true

/-- Some account of the bytes `bs` exists. -/
def AccountedFor (cap : Nat) (s : State) (bs : List Byte) (t : State) : Prop :=
  ∃ ms short, Account cap s bs t ms short

section
variable {cap : Nat} {b : Byte} {s t : State} {bs : List Byte} {ms : List (Message × Bool)} {short : Bool}

theorem AccountedFor.start (cap : Nat) (h : s.buf = []) : AccountedFor cap s [] s :=
  ⟨[], false, rfl, by simp, by simp [h], by simp [h], by simp⟩

theorem AccountedFor.noMessage (h : AccountedFor cap s bs t) : AccountedFor cap s bs t.noMessage := by
  obtain ⟨ms, short, hsend, hem, hbytes, hrs, hshort⟩ := h
  exact ⟨ms, short, hsend, hem, hbytes, hrs, hshort⟩

/-- Emitting moves the buffer, in its form, to the end of the messages (rule R139). -/
theorem Account.emit (h : Account cap s bs t ms short) (hwf : messageWf cap t.buf = true) :
    Account cap s bs t.emit (ms ++ [(t.buf, short)]) false where
  sendable := by
    have hform : (!short || shortOk (statusAfterAll s.rs ms) t.buf) = true := by
      cases hs : short
      · rfl
      · exact h.shortForm hs
    rw [wireOk_concat, h.sendable, hwf, hform]; rfl
  emitted_eq := by simp [h.emitted_eq]
  bytes_eq := by simp [h.bytes_eq]
  rs_eq := by simp [h.rs_eq]
  shortForm := by simp

theorem Account.complete (h : Account cap s bs t ms short)
    (hwf : completes t.buf = true → messageWf cap t.buf = true) : AccountedFor cap s bs t.complete := by
  obtain ⟨hc, -⟩ | ⟨hc, hcomp⟩ := State.complete_cases t <;> rw [hc]
  · exact ⟨_, _, h⟩
  · exact ⟨_, _, h.emit (hwf hcomp)⟩

/-- A first byte `0x80` to `0xF3` begins a message in full form (rule R132). -/
theorem Account.firstStatus (h : Account cap s bs t ms short) (he : t.buf = []) (hb : setsStatus b = true) :
    Account cap s (bs ++ [b]) { t with buf := [b], rs := some b } ms false where
  sendable := h.sendable
  emitted_eq := h.emitted_eq
  bytes_eq := by simp [h.bytes_eq, he, sentBytes]
  rs_eq := by simp [statusAfter, hb]
  shortForm := by simp

/-- A first byte `0xF4` to `0xFF` is a message in full form and leaves the running status (rule R133). -/
theorem Account.firstOneByte (h : Account cap s bs t ms short) (he : t.buf = []) (hb : isOneByte b = true) :
    Account cap s (bs ++ [b]) { t with buf := [b] } ms false where
  sendable := h.sendable
  emitted_eq := h.emitted_eq
  bytes_eq := by simp [h.bytes_eq, he, sentBytes]
  rs_eq := by simp [h.rs_eq, he, statusAfter, setsStatus, hb]
  shortForm := by simp

/-- A first data byte under a running status begins a message in the short form (rules R81, R135). -/
theorem Account.firstData {r : Byte} (h : Account cap s bs t ms short) (he : t.buf = []) (hb : isStatus b = false)
    (hr : t.rs = some r) : Account cap s (bs ++ [b]) { t with buf := [r, b] } ms true := by
  have hrs : statusAfterAll s.rs ms = some r := by simpa [h.rs_eq, he] using hr
  have hshort : shortOk (statusAfterAll s.rs ms) [r, b] = true := by simp [shortOk, hrs, hb]
  exact
    { sendable := h.sendable
      emitted_eq := h.emitted_eq
      bytes_eq := by simp [h.bytes_eq, he, sentBytes]
      rs_eq := by rw [statusAfter_of_shortOk hshort, hrs]; exact hr
      shortForm := fun _ => hshort }

/-- A later byte is the next byte of the message begun, whichever its form (rule R137). -/
theorem Account.later (h : Account cap s bs t ms short) (hne : t.buf ≠ []) :
    Account cap s (bs ++ [b]) { t with buf := t.buf ++ [b] } ms short where
  sendable := h.sendable
  emitted_eq := h.emitted_eq
  bytes_eq := by rw [sentBytes_concat short b hne, ← List.append_assoc, ← h.bytes_eq]
  rs_eq := by rw [statusAfter_concat _ b hne]; exact h.rs_eq
  shortForm hs := shortOk_concat b (h.shortForm hs)

/-- Every byte accepted is accounted for, but the orphan. -/
theorem AccountedFor.accept (h : AccountedFor cap s bs t) (hinv : t.InvAt cap) (hcap : 2 ≤ cap)
    (hroom : t.buf.length < cap) (horphan : ¬(t.buf = [] ∧ isStatus b = false ∧ t.rs = none)) :
    AccountedFor cap s (bs ++ [b]) (t.accept b) := by
  obtain ⟨ms, short, h⟩ := h
  obtain ⟨he, hb⟩ | ⟨he, hb⟩ | ⟨he, hb, r, hr⟩ | hno | hne := State.accept_cases b t
  · rw [State.accept_status he hb]
    exact ⟨ms, false, h.firstStatus he hb⟩
  · have hemit : t.accept b = ({ t with buf := [b] } : State).emit := by
      rw [State.accept_oneByte he hb, State.emit, he]
    rw [hemit]
    exact ⟨_, _, (h.firstOneByte he hb).emit (messageWf_oneByte (by omega) hb)⟩
  · rw [State.accept_continue he hb hr]
    have hop := hinv.rsIsStatus r hr
    exact (h.firstData he hb hr).complete
      (messageWf_of_completes (xs := []) rfl hcap hop (completes_singleton_of_status hop) (by simp))
  · exact absurd hno horphan
  · rw [State.accept_later hne]
    obtain ⟨op, xs, hbuf⟩ := List.exists_cons_of_ne_nil hne
    refine (h.later hne).complete (messageWf_of_completes (op := op) (xs := xs) (b := b) (by simp [hbuf])
      (by simpa using hroom) (hinv.firstIsStatus op xs hbuf) (hbuf ▸ hinv.completes_eq_false hne) ?_)
    rintro rfl
    exact hinv.noTerminator xs hbuf

/-- A byte after which both flags are 0 overflowed nothing and was no orphan (rules R30, R177). -/
theorem feedAt_lossless_iff (cap : Nat) (b : Byte) (s : State) :
    (feedAt cap b s).lossless ↔
      s.lossless ∧ s.buf.length ≠ cap ∧ ¬(s.buf = [] ∧ isStatus b = false ∧ s.rs = none) := by
  simp only [State.lossless, ← Bool.not_eq_true, feedAt_ovf_iff, feedAt_orphan_iff]
  tauto

theorem AccountedFor.feedAt (h : AccountedFor cap s bs t) (hinv : t.InvAt cap) (hcap : 2 ≤ cap)
    (hloss : (feedAt cap b t).lossless) : AccountedFor cap s (bs ++ [b]) (feedAt cap b t) := by
  obtain ⟨-, hroom, horphan⟩ := (feedAt_lossless_iff cap b t).1 hloss
  rw [feedAt_of_room hroom]
  exact h.noMessage.accept (hinv.congr rfl rfl) hcap (lt_of_le_of_ne hinv.lenLe hroom) horphan

theorem feedAll_invAt (bs : List Byte) (hcap : 2 ≤ cap) (h : s.InvAt cap) : (feedAll cap bs s).InvAt cap := by
  induction bs generalizing s with
  | nil => exact h
  | cons b bs ih => exact ih (feedAt_invAt b hcap h)

/-- The flags are sticky, so a run that ends with both flags 0 dropped nothing on the way, and every byte in turn is
added to the account. -/
theorem feedAll_accountedFor (bs : List Byte) (hcap : 2 ≤ cap) (hinv : s.InvAt cap) (he : s.buf = [])
    (hloss : (feedAll cap bs s).lossless) : AccountedFor cap s bs (feedAll cap bs s) := by
  induction bs using List.reverseRecOn with
  | nil => exact .start cap he
  | append_singleton bs b ih =>
    rw [feedAll_append, feedAll_cons, feedAll_nil] at hloss ⊢
    have hbefore := ((feedAt_lossless_iff cap b _).1 hloss).1
    exact (ih hbefore).feedAt (feedAll_invAt bs hcap hinv) hcap hloss

end

/-- Settles O32: the account of the run, where the short form leaves the running status as it found it. -/
theorem everyByteIsAccountedFor : Obligations.EveryByteIsAccountedFor := by
  intro bs s hinv he
  refine ⟨_, run_presentAll bs s, fun hloss => ?_⟩
  obtain ⟨ms, short, h⟩ := feedAll_accountedFor bs Config.two_le_bufCap hinv he hloss
  refine ⟨ms, short, h.sendable, h.emitted_eq, h.bytes_eq, fun hshort => ?_⟩
  have hok := h.shortForm hshort
  have hrs := h.rs_eq.trans (statusAfter_of_shortOk hok)
  exact ⟨hrs, hrs ▸ hok⟩

end Sys2Proof.Machine
end

section
/-! SUPPORT. Family 30_encoding: the running-status short form, messages sent in either form, the type nibble, and the
columns of the opcode map. -/

namespace Sys2Proof.Machine

/-! ### The running-status short form -/

section
variable {cap : Nat} {r d : Byte} {s : State} {bs : List Byte}

/-- The status byte of a full form records the running status that is there already, so the byte after it finds what the
short form synthesises (rules R81, R135). -/
theorem feedAll_shortForm (hcap : 2 ≤ cap) (hbuf : s.buf = []) (hrs : s.rs = some r) (hr : setsStatus r = true)
    (hd : isStatus d = false) : feedAll cap (r :: d :: bs) s = feedAll cap (d :: bs) s := by
  obtain ⟨buf, rs, ovf, orphan, msg, emitted, input⟩ := s
  obtain rfl : buf = [] := hbuf
  obtain rfl : rs = some r := hrs
  have hroom : [r].length ≠ cap := by simp; omega
  simp only [feedAll_cons]
  rw [feedAt_status rfl (by omega) hr, feedAt_later (by simp) hroom, feedAt_continue rfl (by omega) hd rfl]
  rfl

/-- The message as it stands after a byte is accepted: a first data byte is expanded or dropped, and every other byte
is appended as it is (rules R83, R135 to R137). -/
theorem State.assembled_accept (b : Byte) (hmsg : s.msg = none) :
    (s.accept b).assembled =
      if s.buf = [] ∧ isStatus b = false then s.rs.elim [] (fun r => [r, b]) else s.buf ++ [b] := by
  obtain ⟨h, hb⟩ | ⟨h, hb⟩ | ⟨h, hb, r, hr⟩ | ⟨h, hb, hr⟩ | h := State.accept_cases b s
  · simp [State.accept_status h hb, State.assembled, hmsg, h, isStatus_of_setsStatus hb]
  · simp [State.accept_oneByte h hb, State.assembled, h, isStatus_of_isOneByte hb]
  · simp [State.accept_continue h hb hr, State.assembled_complete, hmsg, h, hb, hr]
  · simp [State.accept_orphan h hb hr, State.assembled, hmsg, h, hb, hr]
  · simp [State.accept_later h, State.assembled_complete, hmsg, h]

end

/-! ### Messages sent come through -/

section
variable {cap : Nat} {op z : Byte} {s t : State} {m : Message} {xs ys zs : List Byte}

theorem operandsFit_of_isOneByte (h : isOneByte op = true) (xs : List Byte) : operandsFit op xs = xs.isEmpty := by
  rw [isOneByte_iff] at h
  unfold operandsFit
  split_ifs <;> first | rfl | (exfalso; bv_omega)

theorem isStatus_of_operandsFit (h : operandsFit op xs = true) : isStatus op = true := by
  rw [isStatus_iff]
  by_contra hop
  simp [operandsFit, BitVec.not_le.1 hop] at h

/-- A first byte that takes operands becomes the running status (rules R72, R132). -/
theorem setsStatus_of_operandsFit_cons (h : operandsFit op (z :: zs) = true) : setsStatus op = true := by
  cases hone : isOneByte op with
  | true => simp [operandsFit_of_isOneByte hone] at h
  | false => simp [setsStatus, hone, isStatus_of_operandsFit h]

/-- The operands of a format M2, M3 or MX complete its buffer (rules R72, R138). -/
theorem completes_of_operandsFit (hop : setsStatus op = true) (h : operandsFit op xs = true) :
    completes (op :: xs) = true := by
  obtain ⟨lo, hi⟩ := (setsStatus_iff op).1 hop
  obtain hf | hf | rfl := format_of_status lo hi
  · have hlen : xs.length = 2 := by simpa [operandsFit_three hf] using h
    simp [completes_three hf, hlen]
  · have hlen : xs.length = 1 := by simpa [operandsFit_two hf] using h
    simp [completes_two hf, hlen]
  · obtain ⟨hlast, -⟩ : xs.getLast? = some 0xF7#8 ∧ _ := by simpa [operandsFit_sysex, sysexTail] using h
    simp [completes_sysex, List.getLastD_eq_getLast?, hlast]

/-- A first byte that takes no operand is a message of its own (rules R72, R133). -/
theorem isOneByte_of_operandsFit_nil (h : operandsFit op [] = true) : isOneByte op = true := by
  cases hone : isOneByte op with
  | true => rfl
  | false =>
    have hop : setsStatus op = true := by simp [setsStatus, hone, isStatus_of_operandsFit h]
    rw [← hone, ← completes_singleton, completes_of_operandsFit hop h]

/-- While operands are missing the buffer is not complete: no message begins with another one (rules R72, R138). -/
theorem not_completes_of_operandsFit_append (hop : setsStatus op = true)
    (h : operandsFit op (ys ++ z :: zs) = true) : completes (op :: ys) = false := by
  obtain ⟨lo, hi⟩ := (setsStatus_iff op).1 hop
  obtain hf | hf | rfl := format_of_status lo hi
  · have hlen : ys.length + (zs.length + 1) = 2 := by simpa [operandsFit_three hf] using h
    rw [completes_three hf, decide_eq_false_iff_not]
    omega
  · have hlen : ys.length + (zs.length + 1) = 1 := by simpa [operandsFit_two hf] using h
    rw [completes_two hf, decide_eq_false_iff_not]
    omega
  · obtain ⟨-, hinner, -⟩ : _ ∧ (∀ y ∈ ys, ¬y = 0xF7#8) ∧ _ := by
      simpa [operandsFit_sysex, sysexTail] using h
    rw [completes_sysex, decide_eq_false_iff_not]
    obtain hlast | hlast := List.mem_cons.1 (List.getLastD_mem_cons (l := ys) (a := 0xF0#8))
    · rw [hlast]; decide
    · exact hinner _ hlast

theorem feedAt_operand (hbuf : s.buf = op :: ys) (hroom : ys.length + 1 < cap) :
    feedAt cap z s = ({ s with buf := op :: (ys ++ [z]), msg := none } : State).complete := by
  rw [feedAt_later (by simp [hbuf]) (by simp [hbuf]; omega), hbuf]
  rfl

/-- Operands fed one by one to a buffer that has its status byte are all appended, and the last one sends the message
(rules R137 to R139, R145). -/
theorem feedAll_operands (hbuf : s.buf = op :: ys) (hop : setsStatus op = true)
    (hfit : operandsFit op (ys ++ z :: zs) = true) (hlen : (ys ++ z :: zs).length < cap) :
    feedAll cap (z :: zs) s = s.sent (op :: (ys ++ z :: zs)) := by
  have hroom : ys.length + 1 < cap := by simp at hlen; omega
  rw [feedAll_cons, feedAt_operand hbuf hroom]
  induction zs generalizing s ys z with
  | nil =>
    rw [State.complete_of_completes (completes_of_operandsFit hop hfit)]
    rfl
  | cons z' zs ih =>
    rw [List.append_cons] at hfit hlen
    have hroom' : (ys ++ [z]).length + 1 < cap := by simp at hlen ⊢; omega
    rw [State.complete_of_not (not_completes_of_operandsFit_append hop hfit), feedAll_cons,
      feedAt_operand rfl hroom', ih rfl hfit hlen hroom']
    simp [State.sent]

/-- A message in full form, fed to a block in the ready state, is sent as it is and leaves its status byte as the
running status, unless that is `0xF4` or above (rules R132, R133, R145, R146). -/
theorem feedAll_message (hbuf : s.buf = []) (hwf : messageWf cap m = true) :
    feedAll cap m s = ({ s with rs := statusAfter s.rs m } : State).sent m := by
  match m with
  | [op] =>
    obtain ⟨hfit, hlen⟩ : operandsFit op [] = true ∧ 1 ≤ cap := by simpa [messageWf] using hwf
    have hone := isOneByte_of_operandsFit_nil hfit
    rw [feedAll_cons, feedAt_oneByte hbuf (by omega) hone]
    simp [State.sent, statusAfter, setsStatus, hone, hbuf]
  | op :: z :: zs =>
    obtain ⟨hfit, hlen⟩ : operandsFit op (z :: zs) = true ∧ (z :: zs).length < cap := by
      simpa [messageWf] using hwf
    have hop := setsStatus_of_operandsFit_cons hfit
    rw [feedAll_cons, feedAt_status hbuf (by omega) hop, feedAll_operands (ys := []) rfl hop hfit hlen]
    simp [State.sent, statusAfter, hop]

/-- A message in either form is sent as it is: the short form is fed as the full form is. -/
theorem feedAll_sentBytes {short : Bool} (hbuf : s.buf = []) (hwf : messageWf cap m = true)
    (hform : short = false ∨ shortOk s.rs m = true) :
    feedAll cap (sentBytes (m, short)) s = ({ s with rs := statusAfter s.rs m } : State).sent m := by
  rw [← feedAll_message hbuf hwf]
  cases short with
  | false => rfl
  | true =>
    have hshort := hform.resolve_left (by simp)
    match m, hshort with
    | op :: d :: xs, hshort =>
      obtain ⟨hrs, hd⟩ : s.rs = some op ∧ isStatus d = false := by simpa [shortOk] using hshort
      obtain ⟨hfit, hlen⟩ : operandsFit op (d :: xs) = true ∧ (d :: xs).length < cap := by
        simpa [messageWf] using hwf
      have hcap : 2 ≤ cap := by simp at hlen; omega
      exact (feedAll_shortForm hcap hbuf hrs (setsStatus_of_operandsFit_cons hfit) hd).symm

/-- The block went from `s` to the ready state `t`, emitting the messages `ms` and nothing else, and dropped nothing. -/
structure CameThrough (ms : List Message) (s t : State) : Prop where
  emitted_eq : t.emitted = s.emitted ++ ms
  buf_eq : t.buf = []
  rs_eq : t.rs = ms.foldl statusAfter s.rs
  ovf_eq : t.ovf = s.ovf
  orphan_eq : t.orphan = s.orphan
  input_eq : t.input = s.input

theorem CameThrough.cons {ms : List Message}
    (h : CameThrough ms (({ s with rs := statusAfter s.rs m } : State).sent m) t) : CameThrough (m :: ms) s t where
  emitted_eq := by simp [h.emitted_eq, State.sent]
  buf_eq := h.buf_eq
  rs_eq := h.rs_eq
  ovf_eq := h.ovf_eq
  orphan_eq := h.orphan_eq
  input_eq := h.input_eq

theorem feedAll_wireBytes (ms : List (Message × Bool)) (hbuf : s.buf = []) (hok : wireOk cap s.rs ms = true) :
    CameThrough (ms.map Prod.fst) s (feedAll cap (wireBytes ms) s) := by
  induction ms generalizing s with
  | nil => exact ⟨by simp, hbuf, rfl, rfl, rfl, rfl⟩
  | cons p ms ih =>
    obtain ⟨m, short⟩ := p
    obtain ⟨⟨hwf, hform⟩, hrest⟩ : (messageWf cap m = true ∧ (short = false ∨ shortOk s.rs m = true)) ∧
        wireOk cap (statusAfter s.rs m) ms = true := by
      simpa [wireOk] using hok
    have hcons : wireBytes ((m, short) :: ms) = sentBytes (m, short) ++ wireBytes ms := by simp [wireBytes]
    rw [hcons, feedAll_append, feedAll_sentBytes hbuf hwf hform]
    exact (ih rfl hrest).cons

end

/-- Settles O31, by induction on the messages: each is sent as it is, in whichever form it comes, and leaves the block
ready for the next. -/
theorem sentMessagesComeThrough : Obligations.SentMessagesComeThrough := by
  intro ms s hbuf _ hok
  obtain ⟨hemitted, hbuf', hrs, hovf, horphan, hinput⟩ := feedAll_wireBytes ms hbuf hok
  exact ⟨_, run_presentAll (wireBytes ms) s, hemitted, hbuf', hrs, hovf, horphan, hinput⟩

/-- Settles O38: the short form by the state its full form leaves after the status byte, and every other byte by the
message as it stands after a fed byte. -/
theorem shortFormIsTheOnlyPseudoForm : Obligations.ShortFormIsTheOnlyPseudoForm := by
  refine ⟨fun s r d bs hbuf hrs lo hi hd => ?_, fun i s t hexec => ?_⟩
  · refine ⟨_, run_presentAll (d :: bs) s, ?_⟩
    rw [← feedAll_shortForm Config.two_le_bufCap hbuf hrs ((setsStatus_iff r).2 ⟨lo, hi⟩)
      ((isStatus_eq_false_iff d).2 hd)]
    exact run_presentAll (r :: d :: bs) s
  · obtain rfl := eq_feed_of_exec hexec
    obtain ⟨hdata, -, -⟩ := byte_classes i
    rw [feed, feedAt, State.assembled_accept _ (State.checkCapacity_msg _ s), hdata, State.len_eq]
    refine ⟨fun r hbuf hi hrs => ?_, fun hroom h => ?_, fun h => ?_⟩
    · have hroom : s.buf.length ≠ Config.bufCap := by simp [hbuf, Config.bufCap_ne_zero.symm]
      simp [State.checkCapacity_of_ne hroom, hbuf, hi, hrs]
    · have hnot : ¬(s.buf = [] ∧ isData i = true) := by
        rintro ⟨he, hi⟩
        simp [he, hi] at h
      simp [State.checkCapacity_of_ne hroom, hnot]
    · by_cases hfull : s.buf.length = Config.bufCap
      · simp [State.checkCapacity_of_eq hfull]
      · obtain ⟨hbuf, hrs⟩ := h.resolve_left hfull
        simp [State.checkCapacity_of_ne hfull, hbuf, hrs]

/-! ### The opcode map and the classifier -/

theorem typeNibble_lt_F0_iff (op : Byte) : typeNibble op < 0xF0#8 ↔ op < 0xF0#8 := by revert op; decide

/-- Below `0xF0` the type nibble is all the classifier reads (rules R71, R103 to R109, R115). -/
theorem classify_of_lt_F0 {op : Byte} (h : op < 0xF0#8) (xs : List Byte) :
    classify (op :: xs) =
      if typeNibble op ∈ ([0x80#8, 0x90#8, 0xA0#8, 0xB0#8, 0xE0#8] : List Byte) then .len 3
      else if typeNibble op ∈ ([0xC0#8, 0xD0#8] : List Byte) then .len 2
      else .unknown := by
  have hone : ¬0xF4#8 ≤ op := by bv_omega
  have htwo : ¬(op = 0xF1#8 ∨ op = 0xF3#8) := by bv_omega
  have hthree : op ≠ 0xF2#8 := by bv_omega
  have hsysex : op ≠ 0xF0#8 := by bv_omega
  rw [classify, if_neg hone, if_neg htwo, if_neg hthree, if_neg hsysex]

/-- Settles O12: a byte with the type nibble of a byte below `0xF0` is below `0xF0` itself, and there the verdict is a
function of the type nibble. -/
theorem classifierIgnoresTheChannel : Obligations.ClassifierIgnoresTheChannel := by
  intro op op' xs ys hop hnibble
  have hop' : op' < 0xF0#8 := by rwa [← typeNibble_lt_F0_iff, ← hnibble, typeNibble_lt_F0_iff]
  rw [classify_of_lt_F0 hop, classify_of_lt_F0 hop', hnibble]

/-- The two flag columns of the opcode map are the classes of instructions (rule R76). -/
theorem row_flags (i : Instr) : i.row.setsRunningStatus = opensMessage i ∧ i.row.isOpcode = !isData i := by
  cases i <;> exact ⟨rfl, rfl⟩

/-- The format column by ranges of the byte (rules R72, R75). -/
theorem row_format_decodeByte (b : Byte) :
    (decodeByte b).row.format =
      if b < 0x80#8 then .none
      else if b < 0xC0#8 then .m3
      else if b < 0xE0#8 then .m2
      else if b < 0xF0#8 then .m3
      else if b = 0xF0#8 then .mx
      else if b = 0xF2#8 then .m3
      else if b < 0xF4#8 then .m2
      else .m1 := by
  revert b; decide

/-- Each byte matches one row of the opcode map, its own (rule R76). -/
theorem filter_opcodeTable (b : Byte) :
    opcodeTable.filter (fun r => b &&& r.mask == r.pat) = [(decodeByte b).row] := by
  revert b; decide

/-- Settles O8: the flag columns by the classes of the decoded instruction, the format column by the ranges it shares
with the classifier. -/
theorem opcodeRowsPartitionTheBytes : Obligations.OpcodeRowsPartitionTheBytes := by
  refine ⟨rfl, filter_opcodeTable, fun b => ?_, fun b => ?_⟩
  · obtain ⟨hstatus, hsets, -⟩ := byte_classes (decodeByte b)
    obtain ⟨hrs, hopcode⟩ := row_flags (decodeByte b)
    rw [hrs, hopcode, ← hstatus, ← hsets, byte_decodeByte, setsStatus_iff, isStatus_iff]
    exact ⟨Iff.rfl, Iff.rfl⟩
  · rw [row_format_decodeByte, classify_cons, List.getLastD_nil]
    split_ifs <;> simp <;> bv_omega

end Sys2Proof.Machine
end

section
/-! SUPPORT. Family 40_classifier: the classifier by ranges of the first byte, its counts over one-byte sequences, and
what bounds its verdict. -/

namespace Sys2Proof.Machine

/-! ### The ranges of the first byte -/

section
variable {op : Byte}

theorem classify_of_le_7F (hi : op ≤ 0x7F#8) (xs : List Byte) : classify (op :: xs) = .unknown := by
  rw [classify_cons, if_pos (by bv_omega)]

theorem classify_of_80_le_BF (lo : 0x80#8 ≤ op) (hi : op ≤ 0xBF#8) (xs : List Byte) :
    classify (op :: xs) = .len 3 := by
  rw [classify_cons, if_neg (by bv_omega), if_pos (by bv_omega)]

theorem classify_of_C0_le_DF (lo : 0xC0#8 ≤ op) (hi : op ≤ 0xDF#8) (xs : List Byte) :
    classify (op :: xs) = .len 2 := by
  rw [classify_cons, if_neg (by bv_omega), if_neg (by bv_omega), if_pos (by bv_omega)]

theorem classify_of_E0_le_EF (lo : 0xE0#8 ≤ op) (hi : op ≤ 0xEF#8) (xs : List Byte) :
    classify (op :: xs) = .len 3 := by
  rw [classify_cons, if_neg (by bv_omega), if_neg (by bv_omega), if_neg (by bv_omega), if_pos (by bv_omega)]

theorem classify_of_F4_le (lo : 0xF4#8 ≤ op) (xs : List Byte) : classify (op :: xs) = .len 1 := by
  rw [classify, if_pos lo]

end

/-- The masked rows of rule R101, R103 to R109 together, are the bytes of the channel messages. -/
theorem typeNibble_masked_iff (op : Byte) :
    typeNibble op ∈ ([0x80#8, 0x90#8, 0xA0#8, 0xB0#8, 0xE0#8, 0xC0#8, 0xD0#8] : List Byte) ↔
      0x80#8 ≤ op ∧ op < 0xF0#8 := by
  change typeNibble op ∈ [0x80#8, 0x90#8, 0xA0#8, 0xB0#8, 0xE0#8] ++ [0xC0#8, 0xD0#8] ↔ _
  rw [List.mem_append, typeNibble_three_iff, typeNibble_two_iff]
  bv_omega

/-- On `0xF0` only the last byte decides whether the sequence is complete (rule R102). -/
theorem classify_sysex (xs : List Byte) :
    classify (0xF0#8 :: xs) =
      if xs.getLast? = some 0xF7#8 then .len (xs.length + 1) else .unknown := by
  have hlast : xs.getLastD 0xF0#8 = 0xF7#8 ↔ xs.getLast? = some 0xF7#8 := by
    cases h : xs.getLast? <;> simp [List.getLastD_eq_getLast?, h]
  simp only [← hlast]
  rfl

/-- Off `0xF0` the bytes after the first are not read (rule R117). -/
theorem classify_cons_of_ne_sysex {op : Byte} (h : op ≠ 0xF0#8) (xs : List Byte) :
    classify (op :: xs) = classify [op] := by
  simp only [classify_cons, if_neg h]

/-! ### The counts over one-byte sequences -/

/-- The verdict on the one-byte sequence of the byte of value `n`. -/
def oneByteVerdict (n : Nat) : Verdict := classify [BitVec.ofNat 8 n]

/-- One verdict on a range of byte values is a run of it in the table of one-byte verdicts. -/
theorem map_oneByteVerdict_range' {lo k : Nat} {v : Verdict} (hbyte : lo + k ≤ 256)
    (h : ∀ op : Byte, lo ≤ op.toNat → op.toNat < lo + k → classify [op] = v) :
    (List.range' lo k).map oneByteVerdict = List.replicate k v := by
  refine List.eq_replicate_iff.2 ⟨by simp, fun w hw => ?_⟩
  obtain ⟨n, hn, rfl⟩ := List.mem_map.1 hw
  obtain ⟨hlo, hhi⟩ := List.mem_range'_1.1 hn
  have hnat : (BitVec.ofNat 8 n).toNat = n := Nat.mod_eq_of_lt (by omega)
  exact h _ (by omega) (by omega)

/-- The verdicts on the 256 one-byte sequences, in the order of the byte (rule R116). -/
theorem map_oneByteVerdict_range :
    (List.range 256).map oneByteVerdict =
      List.replicate 128 .unknown ++ List.replicate 64 (.len 3) ++ List.replicate 32 (.len 2) ++
        List.replicate 16 (.len 3) ++ [.unknown, .len 2, .len 3, .len 2] ++ List.replicate 12 (.len 1) := by
  have hruns : List.range' 0 128 ++ List.range' 128 64 ++ List.range' 192 32 ++ List.range' 224 16 ++
      List.range' 240 4 ++ List.range' 244 12 = List.range 256 := by
    rw [List.range'_append_1, List.range'_append_1, List.range'_append_1, List.range'_append_1,
      List.range'_append_1, List.range_eq_range']
  have hdata : (List.range' 0 128).map oneByteVerdict = List.replicate 128 .unknown :=
    map_oneByteVerdict_range' (by decide) fun op _ hi => classify_of_le_7F (by bv_omega) []
  have hch8 : (List.range' 128 64).map oneByteVerdict = List.replicate 64 (.len 3) :=
    map_oneByteVerdict_range' (by decide) fun op lo hi => classify_of_80_le_BF (by bv_omega) (by bv_omega) []
  have hchC : (List.range' 192 32).map oneByteVerdict = List.replicate 32 (.len 2) :=
    map_oneByteVerdict_range' (by decide) fun op lo hi => classify_of_C0_le_DF (by bv_omega) (by bv_omega) []
  have hchE : (List.range' 224 16).map oneByteVerdict = List.replicate 16 (.len 3) :=
    map_oneByteVerdict_range' (by decide) fun op lo hi => classify_of_E0_le_EF (by bv_omega) (by bv_omega) []
  have hsystem : (List.range' 240 4).map oneByteVerdict = [.unknown, .len 2, .len 3, .len 2] := rfl
  have honeByte : (List.range' 244 12).map oneByteVerdict = List.replicate 12 (.len 1) :=
    map_oneByteVerdict_range' (by decide) fun op lo _ => classify_of_F4_le (by bv_omega) []
  simp only [← hruns, List.map_append, hdata, hch8, hchC, hchE, hsystem, honeByte]

/-- How often a verdict occurs over the one-byte sequences, read off the table by runs. -/
theorem countP_oneByteVerdict (v : Verdict) :
    (List.range 256).countP (fun n => oneByteVerdict n == v) =
      (if Verdict.unknown == v then 129 else 0) + (if Verdict.len 3 == v then 81 else 0) +
        (if Verdict.len 2 == v then 34 else 0) + if Verdict.len 1 == v then 12 else 0 := by
  have hmap : ((List.range 256).map oneByteVerdict).countP (· == v) = _ := List.countP_map
  refine hmap.symm.trans ?_
  simp only [map_oneByteVerdict_range, List.countP_append, List.countP_replicate, List.countP_cons, List.countP_nil]
  split_ifs <;> rfl

/-- Settles O9: the ranges by the form of the classifier without the mask, the counts off the table of one-byte
verdicts, and the masked rows by the bytes they cover. -/
theorem classifierPartitionsFirstBytes : Obligations.ClassifierPartitionsFirstBytes := by
  refine ⟨fun op xs => ⟨fun hi => classify_of_le_7F hi xs, fun lo hi => classify_of_80_le_BF lo hi xs,
      fun lo hi => classify_of_C0_le_DF lo hi xs, fun lo hi => classify_of_E0_le_EF lo hi xs, ?_, ?_, ?_,
      fun lo => classify_of_F4_le lo xs⟩,
    ⟨countP_oneByteVerdict _, countP_oneByteVerdict _, countP_oneByteVerdict _, countP_oneByteVerdict _⟩,
    fun op hmask => ((typeNibble_masked_iff op).1 hmask).2, fun op => ?_⟩
  · rintro rfl
    rw [classify_sysex]
    split_ifs
    · exact .inl rfl
    · exact .inr rfl
  · rintro (rfl | rfl) <;> rfl
  · rintro rfl
    rfl
  · rw [typeNibble_masked_iff]
    bv_omega

/-- Settles O10: off `0xF0` by the branches of the classifier, on `0xF0` by the last byte, which makes a complete
sequence longer than the first byte. -/
theorem classifierVerdictIsBounded : Obligations.ClassifierVerdictIsBounded := by
  refine ⟨fun op xs ys hop => ⟨?_, ?_⟩, fun xs => ?_, fun xs ys hlen hlast => ?_⟩
  · rw [classify_cons_of_ne_sysex hop xs, classify_cons_of_ne_sysex hop ys]
  · rw [classify_cons, if_neg hop]
    split_ifs <;> simp
  · rw [classify_sysex]
    split_ifs with hend
    · have hpos : 0 < xs.length := List.length_pos_of_mem (List.mem_of_getLast? hend)
      exact .inr ⟨rfl, Nat.succ_le_succ hpos⟩
    · exact .inl rfl
  · rw [classify_sysex, classify_sysex, hlen, hlast]

end Sys2Proof.Machine
end

section
/-! SUPPORT. Family 41_reassembler: the shape of every message put out, the outcome of a first and of a later byte case
by case, and what a stretch of orphans and a sysex message do to the block. -/

namespace Sys2Proof.Machine

/-! ### The message a byte puts out -/

section
variable {cap : Nat} {b : Byte} {m : Message} {s t : State}

/-- Classifying puts out the whole buffer, and only when it is complete (rules R138, R139). -/
theorem State.complete_msg_eq_some (hmsg : s.msg = none) (h : s.complete.msg = some m) :
    s.complete.buf = [] ∧ m = s.buf ∧ completes s.buf = true := by
  obtain ⟨hc, -⟩ | ⟨hc, hcomp⟩ := State.complete_cases s
  · simp [hc, hmsg] at h
  · rw [hc] at h ⊢
    exact ⟨rfl, (Option.some.inj h).symm, hcomp⟩

/-- The three ways an accepted byte puts out a message: alone, as the end of a short form, and as the last byte of the
buffer (rules R133, R135, R137). -/
theorem State.accept_msg_cases (hmsg : s.msg = none) (h : (s.accept b).msg = some m) :
    (s.accept b).buf = [] ∧
      ((isOneByte b = true ∧ m = [b]) ∨
        (∃ r, s.rs = some r ∧ m = [r, b] ∧ completes m = true) ∨
        (s.buf ≠ [] ∧ m = s.buf ++ [b] ∧ completes m = true)) := by
  obtain ⟨he, hb⟩ | ⟨he, hb⟩ | ⟨he, hb, r, hr⟩ | ⟨he, hb, hr⟩ | hne := State.accept_cases b s
  · simp [State.accept_status he hb, hmsg] at h
  · rw [State.accept_oneByte he hb] at h ⊢
    exact ⟨he, .inl ⟨hb, (Option.some.inj h).symm⟩⟩
  · rw [State.accept_continue he hb hr] at h ⊢
    obtain ⟨hbuf, rfl, hc⟩ := State.complete_msg_eq_some (s := { s with buf := [r, b] }) hmsg h
    exact ⟨hbuf, .inr (.inl ⟨r, hr, rfl, hc⟩)⟩
  · simp [State.accept_orphan he hb hr, hmsg] at h
  · rw [State.accept_later hne] at h ⊢
    obtain ⟨hbuf, rfl, hc⟩ := State.complete_msg_eq_some (s := { s with buf := s.buf ++ [b] }) hmsg h
    exact ⟨hbuf, .inr (.inr ⟨hne, rfl, hc⟩)⟩

/-- A message put out ends in the byte accepted, and leaves the buffer empty (rule R142). -/
theorem State.accept_msg_getLast? (hmsg : s.msg = none) (h : (s.accept b).msg = some m) :
    m.getLast? = some b ∧ (s.accept b).buf = [] := by
  obtain ⟨hbuf, ⟨-, rfl⟩ | ⟨r, -, rfl, -⟩ | ⟨-, rfl, -⟩⟩ := State.accept_msg_cases hmsg h <;> simp [hbuf]

theorem feedAt_msg_getLast? (h : (feedAt cap b s).msg = some m) :
    m.getLast? = some b ∧ (feedAt cap b s).buf = [] :=
  State.accept_msg_getLast? (State.checkCapacity_msg cap s) h

/-- Under the invariants a message put out has the shape of rule R144: the buffer was one byte short of it. -/
theorem State.accept_messageWf (hcap : 2 ≤ cap) (hinv : s.InvAt cap) (hroom : s.buf.length < cap)
    (hmsg : s.msg = none) (h : (s.accept b).msg = some m) : messageWf cap m = true := by
  obtain ⟨-, ⟨hb, rfl⟩ | ⟨r, hr, rfl, hc⟩ | ⟨hne, rfl, hc⟩⟩ := State.accept_msg_cases hmsg h
  · exact messageWf_oneByte (by omega) hb
  · have hop := hinv.rsIsStatus r hr
    exact messageWf_of_completes (s := { s with buf := [r, b] }) (xs := []) rfl hcap hop
      (completes_singleton_of_status hop) (by simp) hc
  · obtain ⟨op, xs, hbuf⟩ := List.exists_cons_of_ne_nil hne
    refine messageWf_of_completes (s := { s with buf := s.buf ++ [b] }) (op := op) (xs := xs) (b := b) (by simp [hbuf])
      (by simpa using hroom) (hinv.firstIsStatus op xs hbuf) (hbuf ▸ hinv.completes_eq_false hne) ?_ hc
    rintro rfl
    exact hinv.noTerminator xs hbuf

theorem feedAt_messageWf (hcap : 2 ≤ cap) (hinv : s.InvAt cap) (h : (feedAt cap b s).msg = some m) :
    messageWf cap m = true := by
  obtain ⟨hinv', hroom⟩ := State.checkCapacity_invAt (by omega) hinv
  exact State.accept_messageWf hcap hinv' hroom (State.checkCapacity_msg cap s) h

theorem messageWf_of_exec {i : Instr} (hinv : s.Inv) (hexec : exec i s = .next t) (h : t.msg = some m) :
    messageWf Config.bufCap m = true := by
  obtain rfl := eq_feed_of_exec hexec
  exact feedAt_messageWf Config.two_le_bufCap hinv h

/-- Only a fed byte puts out a message, and that has the shape of rule R144. -/
theorem messageWf_of_step (hinv : s.Inv) (hstep : step s = .next t) (h : t.msg = some m) :
    messageWf Config.bufCap m = true := by
  obtain rfl | rfl | rfl | ⟨b, rfl⟩ := eq_of_step hstep
  · simp at h
  · simp at h
  · simp at h
  · exact feedAt_messageWf (s := s.takeInput) Config.two_le_bufCap (State.InvAt.congr hinv rfl rfl) h

/-- A stream of well-formed messages stays one when it grows by a step's output, if that is well formed. -/
theorem State.StreamInv.output (hs : s.StreamInv) (hout : t.emitted = s.emitted ++ t.msg.toList)
    (hwf : ∀ m, t.msg = some m → messageWf Config.bufCap m = true) : t.StreamInv := by
  refine ⟨fun m hm => ?_, fun m hm => by simp [hout, hm]⟩
  rw [hout, List.mem_append, Option.mem_toList] at hm
  obtain hm | hm := hm
  · exact hs.1 m hm
  · exact hwf m hm

end

/-- Settles O30: a step adds its output to the stream and nothing else, and under the invariants that output has the
shape of rule R144. -/
theorem stepKeepsTheEmittedStreamWellFormed : Obligations.StepKeepsTheEmittedStreamWellFormed :=
  fun _ _ hinv hs hstep => hs.output (step_output hstep) fun _ hm => messageWf_of_step hinv hstep hm

/-- Settles O21, by the output of the byte fed. -/
theorem atMostOneMessagePerByte : Obligations.AtMostOneMessagePerByte := by
  intro i s t hexec
  obtain rfl := eq_feed_of_exec hexec
  have hout : (feed i.byte s).emitted = s.emitted ++ (feed i.byte s).msg.toList := feedAt_output _ _ s
  cases hmsg : (feed i.byte s).msg with
  | none => exact .inl ⟨rfl, by simpa [hmsg] using hout⟩
  | some m =>
    obtain ⟨hlast, hbuf⟩ := feedAt_msg_getLast? hmsg
    exact .inr ⟨m, rfl, by simpa [hmsg] using hout, hlast, congrArg List.length hbuf⟩

/-! ### The verdict on a well-formed message, and its shape -/

section
variable {cap : Nat} {op : Byte} {xs : List Byte}

theorem classify_three (h : takesThree op) (xs : List Byte) : classify (op :: xs) = .len 3 := by
  obtain ⟨lo, hi⟩ | ⟨lo, hi⟩ | rfl := h
  · exact classify_of_80_le_BF lo hi xs
  · exact classify_of_E0_le_EF lo hi xs
  · rfl

theorem classify_two (h : takesTwo op) (xs : List Byte) : classify (op :: xs) = .len 2 := by
  obtain ⟨lo, hi⟩ | rfl | rfl := h
  · exact classify_of_C0_le_DF lo hi xs
  · rfl
  · rfl

/-- The operands that a format takes are as many as the verdict says (rules R72, R143). -/
theorem classify_of_operandsFit (h : operandsFit op xs = true) : classify (op :: xs) = .len (xs.length + 1) := by
  have hstatus := (isStatus_iff op).1 (isStatus_of_operandsFit h)
  by_cases hone : 0xF4#8 ≤ op
  · have hnil : xs = [] := by simpa [operandsFit_of_isOneByte ((isOneByte_iff op).2 hone)] using h
    rw [classify_of_F4_le hone, hnil]; rfl
  · obtain hf | hf | rfl := format_of_status hstatus (by bv_omega)
    · have hlen : xs.length = 2 := by simpa [operandsFit_three hf] using h
      rw [classify_three hf, hlen]
    · have hlen : xs.length = 1 := by simpa [operandsFit_two hf] using h
      rw [classify_two hf, hlen]
    · obtain ⟨hlast, -⟩ : xs.getLast? = some 0xF7#8 ∧ _ := by simpa [operandsFit_sysex, sysexTail] using h
      rw [classify_sysex, if_pos hlast]

theorem messageWf_cons : messageWf cap (op :: xs) = true ↔ operandsFit op xs = true ∧ xs.length + 1 ≤ cap := by
  simp [messageWf]

/-- The operands of a complete sysex message are a body without `0xF7` and the terminator (rule R72). -/
theorem sysexTail_iff : sysexTail xs = true ↔ ∃ ys, xs = ys ++ [0xF7#8] ∧ 0xF7#8 ∉ ys := by
  constructor
  · intro h
    obtain ⟨hlast, hbody⟩ : xs.getLast? = some 0xF7#8 ∧ ∀ x ∈ xs.dropLast, ¬x = 0xF7#8 := by
      simpa [sysexTail] using h
    exact ⟨xs.dropLast, (List.dropLast_append_getLast? _ hlast).symm, fun hm => hbody _ hm rfl⟩
  · rintro ⟨ys, rfl, hbody⟩
    have hne : ∀ y ∈ ys, y ≠ 0xF7#8 := fun y hy hy7 => hbody (hy7 ▸ hy)
    simpa [sysexTail] using hne

end

/-- Settles O28: a message put out is well formed, and the verdict on a well-formed message is its length. -/
theorem emittedLengthEqualsVerdict : Obligations.EmittedLengthEqualsVerdict := by
  intro i s t m hinv hexec hmsg
  have hwf := messageWf_of_exec hinv hexec hmsg
  match m with
  | op :: xs => exact classify_of_operandsFit (messageWf_cons.1 hwf).1

/-- Settles O29: the operands of a well-formed message, format by format. -/
theorem emittedMessageHasItsShape : Obligations.EmittedMessageHasItsShape := by
  intro i s t op xs hinv hexec
  refine ⟨fun hmsg => absurd (messageWf_of_exec hinv hexec hmsg) (by simp [messageWf]), fun hmsg => ?_⟩
  obtain ⟨hfit, hlen⟩ := messageWf_cons.1 (messageWf_of_exec hinv hexec hmsg)
  refine ⟨hlen, (isStatus_iff op).1 (isStatus_of_operandsFit hfit), fun hone => ?_, fun htwo => ?_,
    fun hthree => ?_, ?_⟩
  · simpa [operandsFit_of_isOneByte ((isOneByte_iff op).2 hone)] using hfit
  · simpa [operandsFit_two htwo] using hfit
  · simpa [operandsFit_three hthree] using hfit
  · rintro rfl
    exact sysexTail_iff.1 hfit

/-! ### A first byte -/

/-- Settles O13: the class of the instruction is the class of its byte, and a lone status byte is not complete. -/
theorem firstStatusByteOpensAMessage : Obligations.FirstStatusByteOpensAMessage := by
  have hclass : ∀ i, opensMessage i = true ↔ 0x80#8 ≤ i.byte ∧ i.byte ≤ 0xF3#8 := fun i => by
    rw [← (byte_classes i).2.1, setsStatus_iff]
  refine ⟨hclass, fun i hi hlen => ?_, fun i s hi hbuf => ?_⟩
  · have hshort := length_lt_of_not_completes (completes_singleton_of_status ((hclass i).1 hi)) hlen
    simp at hshort
  · rw [exec_eq_feed, feed, feedAt_status hbuf Config.bufCap_ne_zero ((byte_classes i).2.1.trans hi)]

/-- Settles O14, by the class of the byte. -/
theorem firstOneByteMessageIsEmittedAtOnce : Obligations.FirstOneByteMessageIsEmittedAtOnce := by
  refine ⟨fun i => ?_, fun i s hi hbuf => ?_⟩
  · rw [← (byte_classes i).2.2, isOneByte_iff]
  · rw [exec_eq_feed, feed, feedAt_oneByte hbuf Config.bufCap_ne_zero ((byte_classes i).2.2.trans hi)]

/-- Settles O16: a data byte is no status byte, so as a first byte without a running status it is an orphan. -/
theorem firstDataByteWithoutStatusIsOrphan : Obligations.FirstDataByteWithoutStatusIsOrphan := by
  intro d s hbuf hrs
  rw [exec_eq_feed, feed, feedAt_orphan hbuf Config.bufCap_ne_zero (byte_classes (.data d)).1 hrs]

/-- Classifying the message `m` once it is stored: it is sent when complete, and else kept (rules R138, R139). -/
theorem State.complete_stored (m : Message) (s : State) :
    ({ s with buf := m, msg := none } : State).complete =
      if completes m = true then s.sent m else { s with buf := m, msg := none } := by
  split_ifs with h
  · exact State.complete_of_completes h
  · exact State.complete_of_not (by simpa using h)

/-- A first data byte under a running status makes a message of the two (rule R135). -/
theorem exec_data_continue {s : State} {r : Byte} (d : BitVec 7) (hbuf : s.buf = []) (hrs : s.rs = some r) :
    exec (.data d) s = .next (if completes [r, (Instr.data d).byte] = true then s.sent [r, (Instr.data d).byte]
      else { s with buf := [r, (Instr.data d).byte], msg := none }) := by
  rw [exec_eq_feed, feed, feedAt_continue hbuf Config.bufCap_ne_zero (byte_classes (.data d)).1 hrs,
    State.complete_stored]

/-- A data byte is not `0xF7`. -/
theorem byte_data_ne_terminator (d : BitVec 7) : (Instr.data d).byte ≠ 0xF7#8 := by revert d; decide

/-- Settles O15, by the format of the running status: two bytes complete a two-byte message only. -/
theorem firstDataByteContinuesRunningStatus : Obligations.FirstDataByteContinuesRunningStatus := by
  intro d s r hbuf hrs _ _
  rw [exec_data_continue d hbuf hrs]
  refine ⟨fun hthree => ?_, fun htwo => ?_, ?_⟩
  · simp [completes_three hthree]
  · simp [completes_two htwo, State.sent, hbuf]
  · rintro rfl
    simp [completes_sysex, byte_data_ne_terminator]

/-! ### A later byte -/

/-- A later byte that fits is stored, whatever it is, and the buffer classified (rule R137). -/
theorem exec_later {s : State} (i : Instr) (hne : s.buf ≠ []) (hroom : s.len < Config.bufCap) :
    exec i s = .next (if completes (s.buf ++ [i.byte]) = true then s.sent (s.buf ++ [i.byte])
      else { s with buf := s.buf ++ [i.byte], msg := none }) := by
  rw [exec_eq_feed, feed, feedAt_later hne (Nat.ne_of_lt hroom), State.complete_stored]

/-- Settles O17: the two premises are the completion test and its negation. -/
theorem laterByteIsAppendedWhateverItIs : Obligations.LaterByteIsAppendedWhateverItIs := by
  intro i s hne hroom
  have hiff : completes (s.buf ++ [i.byte]) = true ↔
      ∃ n, classify (s.buf ++ [i.byte]) = .len n ∧ n ≤ s.len + 1 := by simp [completes_iff]
  rw [exec_later i hne hroom]
  refine ⟨fun hcomp => by rw [if_pos (hiff.2 hcomp)], fun hshort => ?_⟩
  have hnot : ¬completes (s.buf ++ [i.byte]) = true := by
    rw [hiff]
    rintro ⟨n, hn, hle⟩
    exact absurd (hshort n hn) (not_lt.2 hle)
  rw [if_neg hnot]

/-- A later byte completes a sysex message exactly when it is the terminator (rule R151). -/
theorem completes_sysex_concat (xs : List Byte) (b : Byte) :
    completes (0xF0#8 :: xs ++ [b]) = decide (b = 0xF7#8) := by
  rw [List.cons_append, completes_sysex, List.getLastD_concat]

/-- Settles O18: a later byte is appended, and the format of the first byte says whether it completes the message. -/
theorem messageCompletesByItsFormat : Obligations.MessageCompletesByItsFormat := by
  intro i s hroom
  refine ⟨fun op hbuf htwo => ?_, fun op hbuf hthree => ?_, fun op x hbuf hthree => ?_, fun xs hbuf hb => ?_,
    fun xs hbuf hb => ?_⟩
  all_goals rw [exec_later i (by simp [hbuf]) hroom, hbuf]
  · simp [completes_two htwo]
  · simp [completes_three hthree]
  · simp [completes_three hthree]
  · rw [completes_sysex_concat, if_pos (by simpa using hb), hb]
  · rw [completes_sysex_concat, if_neg (by simpa using hb)]

/-! ### A stretch of orphans -/

/-- With no running status to continue, a stream without status bytes below `0xF4` adds its one-byte messages to the
stream of messages and raises the orphan flag for its data bytes; besides, only the output port changes (rules R133,
R136). -/
theorem feedAll_orphans {cap : Nat} (hcap : cap ≠ 0) (bs : List Byte) (s : State) (hbuf : s.buf = [])
    (hrs : s.rs = none) (hbs : ∀ b ∈ bs, isStatus b = false ∨ isOneByte b = true) :
    feedAll cap bs s = { s with
      msg := (feedAll cap bs s).msg
      orphan := s.orphan || bs.any (!isStatus ·)
      emitted := s.emitted ++ (bs.filter isOneByte).map ([·]) } := by
  induction bs generalizing s with
  | nil => simp
  | cons b bs ih =>
    obtain ⟨hb, hbs⟩ := List.forall_mem_cons.1 hbs
    rw [feedAll_cons]
    cases hstatus : isStatus b with
    | false =>
      have hone : isOneByte b = false := by
        rw [← Bool.not_eq_true]
        intro hone
        simp [isStatus_of_isOneByte hone] at hstatus
      rw [feedAt_orphan hbuf hcap hstatus hrs]
      refine (ih { s with orphan := true, msg := none } hbuf hrs hbs).trans ?_
      simp [hstatus, hone]
    | true =>
      have hone : isOneByte b = true := hb.resolve_left (by simp [hstatus])
      rw [feedAt_oneByte hbuf hcap hone]
      refine (ih { s with msg := some [b], emitted := s.emitted ++ [[b]] } hbuf hrs hbs).trans ?_
      simp [hstatus, hone]

/-- Settles O34: the outcome of the whole stretch, field by field. -/
theorem orphansUntilTheNextStatusByte : Obligations.OrphansUntilTheNextStatusByte := by
  intro bs s hbuf hrs hbs
  refine ⟨_, run_presentAll bs s, ?_⟩
  rw [feedAll_orphans Config.bufCap_ne_zero bs s hbuf hrs (by simpa [isStatus, isOneByte] using hbs)]
  exact ⟨hbuf, hrs, rfl, by simp [isStatus], rfl⟩

/-! ### A sysex message -/

section
variable {cap : Nat} {xs : List Byte} {s : State}

theorem classify_sysex_body (h : 0xF7#8 ∉ xs) : classify (0xF0#8 :: xs) = .unknown := by
  rw [classify_sysex, if_neg fun hlast => h (List.mem_of_getLast? hlast)]

theorem messageWf_sysex (h : 0xF7#8 ∉ xs) (hlen : xs.length + 2 ≤ cap) :
    messageWf cap (0xF0#8 :: xs ++ [0xF7#8]) = true := by
  rw [List.cons_append, messageWf_cons, List.length_append, List.length_singleton]
  exact ⟨sysexTail_iff.2 ⟨xs, rfl, h⟩, hlen⟩

/-- A sysex message without its terminator stays in the buffer while it fits (rule R151). -/
theorem feedAll_sysex_body (hbuf : s.buf = []) (hbody : 0xF7#8 ∉ xs) (hlen : xs.length + 1 ≤ cap) :
    feedAll cap (0xF0#8 :: xs) s = { s with buf := 0xF0#8 :: xs, rs := some 0xF0#8, msg := none } := by
  induction xs using List.reverseRecOn with
  | nil => exact feedAt_status hbuf (by omega) rfl
  | append_singleton xs b ih =>
    obtain ⟨hxs, hb⟩ : 0xF7#8 ∉ xs ∧ ¬0xF7#8 = b := by simpa using hbody
    have hroom : xs.length + 1 < cap := by simpa using hlen
    have hinc : completes (0xF0#8 :: xs ++ [b]) = false := by
      rw [completes_sysex_concat, decide_eq_false_iff_not]
      exact Ne.symm hb
    rw [← List.cons_append, feedAll_append, ih hxs hroom.le, feedAll_cons, feedAt_operand rfl hroom,
      State.complete_of_not hinc]
    rfl

end

/-- Settles O35: without its terminator the message is kept, and with it the message is well formed, so it comes through
as every such message does. -/
theorem sysexIsAssembledUpToItsTerminator : Obligations.SysexIsAssembledUpToItsTerminator := by
  intro xs s hbuf hbody
  refine ⟨classify_sysex_body hbody, ?_, fun hlen => ?_, fun hlen => ?_⟩
  · simp [classify_sysex]
  · rw [runBytes, run_presentAll, feedAll_sysex_body hbuf hbody hlen]
    rfl
  · rw [runBytes, run_presentAll, feedAll_message hbuf (messageWf_sysex hbody hlen)]
    rfl

end Sys2Proof.Machine
end

section
/-! SUPPORT. Family 60_exceptions: what a byte does to a full buffer, and which buffers can be full. -/

namespace Sys2Proof.Machine

/-- On a full buffer an instruction drops the buffer and the running status, and its byte is then accepted as a first
byte (rules R140, R172). -/
theorem exec_of_full {s : State} (i : Instr) (hfull : s.len = Config.bufCap) :
    exec i s = .next (({ s with buf := [], rs := none, ovf := true, msg := none } : State).accept i.byte) := by
  rw [exec_eq_feed, feed, feedAt_of_full hfull]

/-- Only a sysex buffer without its terminator grows to three bytes, so no other buffer can be full (rule R32). -/
theorem State.InvAt.sysex_of_full {cap : Nat} {s : State} (h : s.InvAt cap) (hcap : 3 ≤ cap) (hfull : s.len = cap) :
    ∃ xs, s.buf = 0xF0#8 :: xs ∧ 0xF7#8 ∉ xs := by
  obtain ⟨op, xs, hbuf⟩ : ∃ op xs, s.buf = op :: xs := by
    refine List.exists_cons_of_ne_nil fun hnil => ?_
    rw [State.len_eq, hnil, List.length_nil] at hfull
    omega
  obtain rfl : op = 0xF0#8 := by
    by_contra hop
    have hshort := h.shortUnlessSysex op xs hbuf hop
    omega
  exact ⟨xs, hbuf, h.noTerminator xs hbuf⟩

/-- Settles O19, by the class of the byte: with the buffer and the running status dropped, a data byte is an orphan, a
status byte opens a message, and a one-byte message is put out. -/
theorem fullBufferOverflows : Obligations.FullBufferOverflows := by
  refine ⟨fun i s hfull => ?_, fun s hinv hfull => hinv.sysex_of_full Config.three_le_bufCap hfull⟩
  rw [exec_of_full i hfull]
  obtain ⟨hdata, hopens, halone⟩ := byte_classes i
  refine ⟨fun hi => ?_, fun hi => ?_, fun hi => ?_⟩
  · rw [State.accept_orphan rfl (by rw [hdata, hi]; rfl) rfl]
  · rw [State.accept_status rfl (hopens.trans hi)]
  · rw [State.accept_oneByte rfl (halone.trans hi)]

end Sys2Proof.Machine
end

section
/-! SUPPORT. Family 70_reset_and_hazards: what a reset step answers. -/

namespace Sys2Proof.Machine

/-- Reset wins: with `rst = 1` the step is a reset step, and the byte presented with it is not fed (rules R190, R191). -/
theorem step_of_rst {s : State} {p : InPort} {rest : List InPort} (hin : s.input = p :: rest) (hrst : p.rst = true) :
    step s = .next s.takeInput.resetStep := by
  simp [step, hin, hrst]

/-- Settles O2: the step answers the reset step's state, and each clause is one of its fields or a view of one. -/
theorem resetStepClearsTheBlock : Obligations.ResetStepClearsTheBlock := by
  intro s v b rest hin
  refine ⟨s.takeInput.resetStep, step_of_rst hin rfl, ?_⟩
  simp [State.rsValid, State.msgValid]

end Sys2Proof.Machine
end

section
/-! SUPPORT. Family other: decoding and encoding undo each other, the verdict of each row of the opcode map, the whole
state after a reset step and after an idle step, and the invariants at reset. -/

namespace Sys2Proof.Machine

/-! ### Decoding and encoding -/

/-- The byte of an instruction decodes to that instruction, with its operand (rules R71, R75). -/
theorem decodeByte_byte (i : Instr) : decodeByte i.byte = i := by
  cases i with
  | data d => revert d; decide
  | ch8 c | ch9 c | chA c | chB c | chC c | chD c | chE c => revert c; decide
  | _ => rfl

theorem decode_encode (i : Instr) (rest : List Byte) : decode (encode i ++ rest) = .ok (i, rest) :=
  congrArg (fun j => Except.ok (j, rest)) (decodeByte_byte i)

theorem encode_decodeByte (b : Byte) : encode (decodeByte b) = [b] := congrArg (fun c => [c]) (byte_decodeByte b)

/-- Settles O7: `Instr.byte` and `decodeByte` are inverse to each other, and decoding leaves the rest as it is. -/
theorem decodeAndEncodeAgree : Obligations.DecodeAndEncodeAgree :=
  ⟨fun i rest _ => decode_encode i rest, fun b _ => ⟨decodeByte b, rfl, encode_decodeByte b⟩⟩

/-- Settles O6: each word is the encoding of its instruction, before the bytes that follow it. -/
theorem writtenOutWordsDecode : Obligations.WrittenOutWordsDecode :=
  ⟨decode_encode (.data 0b1000001#7) [], decode_encode (.ch8 0b1111#4) [],
    decode_encode (.chC 0b0101#4) [0b00001010#8], decode_encode (.chE 0b1110#4) [], decode_encode .sysex [],
    decode_encode .sysF3 [], decode_encode .sysF7 [], decode_encode .sysFF [], rfl⟩

/-! ### The verdict of a row -/

/-- The verdict on a sequence whose first byte has the format given and whose later bytes are `xs` (rule R72). -/
def formatVerdict (xs : List Byte) : Format → Verdict
  | .none => .unknown
  | .m1 => .len 1
  | .m2 => .len 2
  | .m3 => .len 3
  | .mx => if xs.getLast? = some 0xF7#8 then .len (xs.length + 1) else .unknown

/-- The classifier reads no more of the first byte than the format of its row (rules R72, R102 to R115). -/
theorem classify_of_row_format {i : Instr} {f : Format} (hf : i.row.format = f) (xs : List Byte) :
    classify (i.byte :: xs) = formatVerdict xs f := by
  have hrow := row_format_decodeByte i.byte
  rw [decodeByte_byte, hf] at hrow
  by_cases hsysex : i.byte = 0xF0#8
  · rw [hrow, hsysex, classify_sysex]
    rfl
  · rw [hrow, classify_cons, if_neg hsysex, if_neg hsysex]
    split_ifs <;> rfl

/-- Settles O11: the rows of each clause share one format, and the format gives the verdict. -/
theorem everyRowHasItsVerdict : Obligations.EveryRowHasItsVerdict := by
  refine ⟨rfl, fun xs => ⟨fun d => ?data, fun c i hi => ?three, fun c i hi => ?two, fun i hi => ?one, ?complete,
    fun hend => ?incomplete⟩⟩
  case data => exact classify_of_row_format (i := .data d) (f := .none) rfl xs
  case three => exact classify_of_row_format (f := .m3) (by revert i; revert c; decide) xs
  case two => exact classify_of_row_format (f := .m2) (by revert i; revert c; decide) xs
  case one => exact classify_of_row_format (f := .m1) (by revert i; decide) xs
  case complete =>
    have hend : (xs ++ [0xF7#8]).getLast? = some 0xF7#8 := List.getLast?_concat
    rw [classify_of_row_format (f := .mx) rfl, formatVerdict, if_pos hend, List.length_append]
    rfl
  case incomplete => rw [classify_of_row_format (f := .mx) rfl, formatVerdict, if_neg hend]

/-! ### Reset and idle steps -/

/-- Settles O3: the reset step's state field by field, on the state with this step's input taken off. -/
theorem resetStepKeepsTheStreams : Obligations.ResetStepKeepsTheStreams := by
  intro s p rest hin hrst
  rw [step_of_rst hin hrst, State.takeInput_of_cons hin]
  rfl

theorem step_of_no_byte {s : State} {p : InPort} {rest : List InPort} (hin : s.input = p :: rest)
    (hrst : p.rst = false) (hvalid : p.inValid = false) : step s = .next s.takeInput.idleStep := by
  simp [step, hin, hrst, hvalid]

theorem step_of_no_input {s : State} (hin : s.input = []) : step s = .next s.idleStep := by
  simp [step, hin]

/-- Settles O4: both are idle steps, the first on the state with this step's input taken off. -/
theorem idleStepChangesNothing : Obligations.IdleStepChangesNothing := by
  refine ⟨fun s b rest hin => ?_, fun s hin => step_of_no_input hin⟩
  rw [step_of_no_byte hin rfl rfl, State.takeInput_of_cons hin]
  rfl

/-! ### The invariants at reset -/

/-- Settles O26: at reset the buffer is empty and no running status is held, nothing has been emitted and nothing is
presented. -/
theorem resetStateMeetsTheInvariants : Obligations.ResetStateMeetsTheInvariants := by
  refine ⟨State.invAt_of_empty rfl fun r hrs => ?_, fun m hm => ?_, fun m hm => ?_⟩
  · exact absurd hrs (Option.some_ne_none r).symm
  · exact absurd hm List.not_mem_nil
  · exact absurd hm (Option.some_ne_none m).symm

end Sys2Proof.Machine
end
